-- ==== Sys2Proof/Word.lean ====
section
/-!
DEFINITION. The word types of the machine (spec 00_scope.md rules R9 and section 5, 41_alu_arith_logic.md rule R204):
every CPU register and memory datum is 8 bits, every CPU address 16 bits, every pixel 24 bits.
-/

namespace Sys2Proof

/-- An 8-bit datum (R9, R20): "wrap mod 256". -/
abbrev Byte := BitVec 8

/-- A 16-bit CPU address or program counter (R24). -/
abbrev Word := BitVec 16

/-- A finished pixel: three 8-bit lanes `L2 L1 L0`, `L2` in bits 23..16 (45_ppu.md rule R346). -/
abbrev Color := BitVec 24

/-- The little-endian word whose low byte is `lo` and whose high byte is `hi` (20_memory.md rules R84, R85). -/
def wordOf (lo hi : Byte) : Word := hi ++ lo

/-- `v[7:0]` of a word. -/
def loByte (w : Word) : Byte := w.extractLsb' 0 8

/-- `v[15:8]` of a word, its page (00_scope.md section 5, `page(a)`). -/
def hiByte (w : Word) : Byte := w.extractLsb' 8 8

end Sys2Proof
end

