-- ==== Sys2Proof/Config.lean ====
section
/-!
DEFINITION. The configuration record of 00_scope.md rule R10: what is fixed for a machine and never written by a step.
Every parameter of the table of R10 that does not come from the cartridge header is a field here; the default of each is
the spec's own. The mapper kinds that R452 of 47_mapper_cartridge.md leaves open are given as PLAIN DATA (`MapperKind`),
a list of actions built only from the primitives that R452 allows.
-/

namespace Sys2Proof

/-- A number computed by an open mapper kind from the store it sees (DESIGN CHOICE, log entry 17).
`addr` and `value` are the bus address and byte of the access, `reg k` the kind's own register `k`, `mem a` the byte `mem[a]`,
and `irqCounter`, `irqLatch` and `irqEnable` the scanline counter's fields (R444). -/
inductive MapExpr where
  | lit (n : Nat)
  | addr
  | value
  | reg (k : Nat)
  | mem (a : MapExpr)
  | irqCounter
  | irqLatch
  | irqEnable
  | prgBanks
  | chrBanks
  | add (x y : MapExpr)
  | sub (x y : MapExpr)
  | mul (x y : MapExpr)
  | div (x y : MapExpr)
  | mod (x y : MapExpr)
  | band (x y : MapExpr)
  | bor (x y : MapExpr)
  | bxor (x y : MapExpr)
  /-- 1 when the two are equal, else 0. -/
  | eq (x y : MapExpr)
  /-- 1 when the first is smaller, else 0. -/
  | lt (x y : MapExpr)
  deriving DecidableEq, Repr

/-- One action of an open mapper kind: a primitive of R438 or R442, `SetMirroring`, or an update of the kind's own registers
(R452). `address` is the start of the window slice the primitive fills. -/
inductive MapAction where
  | loadRomBank (bank address : MapExpr)
  | load32kRomBank (bank address : MapExpr)
  | load8kRomBank (bank address : MapExpr)
  | loadVromBank (bank address : MapExpr)
  | load8kVromBank (bank address : MapExpr)
  | load2kVromBank (bank address : MapExpr)
  | load1kVromBank (bank address : MapExpr)
  /-- 0 Horizontal, 1 Vertical, 2 SingleScreen0, 3 SingleScreen1, else FourScreen. -/
  | setMirroring (mode : MapExpr)
  | setReg (k : Nat) (v : MapExpr)
  | setIrqCounter (v : MapExpr)
  | setIrqLatch (v : MapExpr)
  | setIrqEnable (v : MapExpr)
  /-- The action is done when the condition is not 0. -/
  | onlyIf (condition : MapExpr) (act : MapAction)
  deriving DecidableEq, Repr

/-- What a replacement read or write of an open mapper kind may do (R452): an action, and what the base access it replaces does
(20_memory.md rule R81): a store into `mem` and the battery-RAM callback. `KindWrite`, the power-on layout and `latchAccess` have no store. -/
inductive MapEffect where
  | act (a : MapAction)
  /-- `mem[address] <- byte`. -/
  | storeMem (address byte : MapExpr)
  /-- The battery-RAM persistence callback `(address, byte)`. -/
  | persist (address byte : MapExpr)
  /-- The effect happens when the condition is not 0. -/
  | onlyIf (condition : MapExpr) (effect : MapEffect)
  deriving DecidableEq, Repr

/-- A replacement read of an open mapper kind (R436, R452): the byte returned for addresses `lo..hi`, and what the read does.
The base read with a side effect is the result `mem addr`. -/
structure MapRead where
  lo : Nat
  hi : Nat
  result : MapExpr
  effects : List MapEffect
  deriving DecidableEq, Repr

/-- A replacement write of an open mapper kind (R452) for addresses `lo..hi`. -/
structure MapWrite where
  lo : Nat
  hi : Nat
  effects : List MapEffect
  deriving DecidableEq, Repr

/-- A `MapperKind` of R452 as plain data. -/
structure MapperKind where
  /-- The mapper-type identifier this kind is registered for. -/
  mapperType : Nat
  /-- The kind's register file with its reset values. -/
  regs : List Nat
  /-- `KindWrite(address, value)` for 0x8000..0xFFFF. -/
  kindWrite : List MapAction
  /-- `LoadInitialPrg()` of the kind's power-on layout; `none` for a kind that does not state its own, which takes the default of R440
  (each of the two procedures on its own: DESIGN CHOICE, log entry 17). An empty list is a layout that copies nothing. -/
  initialPrg : Option (List MapAction)
  /-- `LoadInitialChr()` of the kind's power-on layout, likewise. -/
  initialChr : Option (List MapAction)
  /-- Whether the kind has the scanline counter of R444. -/
  hasIrqCounter : Bool
  /-- The reset values of the scanline counter's fields. -/
  irqCounter : Nat
  irqLatchValue : Nat
  irqEnable : Bool
  /-- `latchAccess(address)` (R445). -/
  latchAccess : List MapAction
  reads : List MapRead
  writes : List MapWrite
  deriving DecidableEq, Repr

/-- `HALT_ADDR_MODE` (decision D13): which address the illegal-opcode halt reports. -/
inductive HaltAddrMode where
  | opcodeByte
  | afterOpcodeByte
  deriving DecidableEq, Repr

/-- `TRAINER_OFFSET`, the bytes between the header and the first program bank (R10; 47_mapper_cartridge.md rule R433), for a file whose
trainer bit is clear and for one whose bit is set: the two readings of 90_conflicts.md C12 are 0, 0 and 0, 512. -/
structure TrainerOffset where
  without : Nat
  withTrainer : Nat
  deriving DecidableEq, Repr

/-- A rate: a fraction of natural numbers. The spec gives its rates no numeric type; the model takes the fractions that are not negative
(DESIGN CHOICE, log entry 36). -/
structure Rate where
  num : Nat
  den : Nat
  deriving DecidableEq, Repr

/-- The three kinds of interrupt request (10_state.md rule R33). -/
inductive IrqKind where
  | normal
  | nonMaskable
  | reset
  deriving DecidableEq, Repr

/-- The parameters of R10, the machine's configuration record. -/
structure Config where
  /-- `RESET_P`. -/
  resetP : Byte
  /-- `RAM_NOISE`: offsets inside each 0x800-byte page that are not 0xFF after reset, with their values. -/
  ramNoise : List (Nat × Byte)
  /-- `MEM2000_RESET`. -/
  mem2000Reset : Byte
  /-- `NMI_DELAY`, in dots. -/
  nmiDelay : Nat
  /-- `HALT_CHUNK`, in CPU cycles. -/
  haltChunk : Nat
  /-- `APU_INIT_WINDOW`, in CPU cycles. -/
  apuInitWindow : Nat
  /-- `FRAME_TICK_BASE`, a count of half CPU cycles (a whole number: DESIGN CHOICE, log entry 36). -/
  frameTickBase : Nat
  /-- `PREFERRED_FRAME_RATE`. -/
  preferredFrameRate : Rate
  /-- `SAMPLE_RATE`, in Hz. -/
  sampleRate : Rate
  /-- `CPU_CLOCK_HZ`. -/
  cpuClockHz : Rate
  /-- `MASTER_VOLUME`. -/
  masterVolume : Nat
  /-- `PANNING[0..4]`: pulse 1, pulse 2, triangle, noise, DMC. -/
  panning : List Nat
  /-- `PALETTE[0..63]`. -/
  palette : List Color
  haltAddrMode : HaltAddrMode
  /-- `AXS_WRITES_V`. -/
  axsWritesV : Bool
  trainerOffset : TrainerOffset
  /-- `BATTERY_RAM_INIT`, for a load at which the host hands no image back (70_reset_and_hazards.md rule R544; log entry 37). -/
  batteryRamInit : Option (List Byte)
  /-- `CLIP_TO_TV_SIZE`. -/
  clipToTvSize : Bool
  /-- `DOT_SKIP_ALTERNATES`. -/
  dotSkipAlternates : Bool
  /-- The set of registered `MapperKind`s beside types 0, 2, 3, 4 and 7 (R452); of two for one type the first in the list applies
(DESIGN CHOICE, log entry 18). -/
  mapperKinds : List MapperKind
  /-- What `buffer` and `bgbuffer` hold between reset and the first frame ("any value", 93 P17). -/
  bufferReset : Color
  /-- What `pixrendered` holds between reset and the first frame ("any value", 93 P17). -/
  pixrenderedReset : BitVec 12
  /-- `irqKind` after reset ("any value", 93 P16). -/
  irqKindReset : IrqKind
  deriving DecidableEq, Repr

/-- The recollected palette of 93_implementation_defined.md P8, rows 0x00 and 0x10. -/
def paletteLow : List Color :=
  [0x525252, 0xB40000, 0xA00000, 0xB1003D, 0x740069, 0x00005B, 0x00005F, 0x001840,
   0x002F10, 0x084A08, 0x006700, 0x124200, 0x6D2800, 0x000000, 0x000000, 0x000000] ++
  [0xC4D5E7, 0xFF4000, 0xDC0E22, 0xFF476B, 0xD7009F, 0x680AD7, 0x0019BC, 0x0054B1,
   0x006A5B, 0x008C03, 0x00AB00, 0x2C8800, 0xA47200, 0x000000, 0x000000, 0x000000]

/-- The recollected palette of 93_implementation_defined.md P8, rows 0x20 and 0x30. -/
def paletteHigh : List Color :=
  [0xF8F8F8, 0xFFAB3C, 0xFF7981, 0xFF5BC5, 0xFF48F2, 0xDF49FF, 0x476DFF, 0x00B4F7,
   0x00E0FF, 0x00E375, 0x03F42B, 0x78B82E, 0xE5E218, 0x787878, 0x000000, 0x000000] ++
  [0xFFFFFF, 0xFFF2BE, 0xF8B8B8, 0xF8B8D8, 0xFFB6FF, 0xFFC3FF, 0xC7D1FF, 0x9ADAFF,
   0x88EDF8, 0x83FFDD, 0xB8F8B8, 0xF5F8AC, 0xFFFFB0, 0xF8D8F8, 0x000000, 0x000000]

/-- The defaults of R10. `sampleRate` has no default in the spec: 44100 is a DESIGN CHOICE (log entry 1);
`palette` is the spec's unaudited recollection (PRESUMED, log entry 3);
`bufferReset`, `pixrenderedReset` and `irqKindReset` are "any value" (DESIGN CHOICE, log entries 4 and 5). -/
def Config.default : Config where
  resetP := 0x28
  ramNoise := [(0x008, 0xF7), (0x009, 0xEF), (0x00A, 0xDF), (0x00F, 0xBF)]
  mem2000Reset := 0x00
  nmiDelay := 9
  haltChunk := 8
  apuInitWindow := 2048
  frameTickBase := 14915
  preferredFrameRate := { num := 60, den := 1 }
  sampleRate := { num := 44100, den := 1 }
  cpuClockHz := { num := 3579545, den := 2 }
  masterVolume := 256
  panning := [80, 170, 100, 150, 128]
  palette := paletteLow ++ paletteHigh
  haltAddrMode := .opcodeByte
  axsWritesV := true
  trainerOffset := { without := 0, withTrainer := 0 }
  batteryRamInit := none
  clipToTvSize := true
  dotSkipAlternates := true
  mapperKinds := []
  bufferReset := 0
  pixrenderedReset := 0
  irqKindReset := .normal

/-- The parameter values a machine is built with: a sample rate above 0 (93 P6: "A model must `refuse` `SAMPLE_RATE <= 0`"), rates that
are fractions, and an idle step of at least one cycle (48_scheduler_session.md rule R477: "`HALT_CHUNK` must be at least 1"; log entry 16). -/
def Config.ok (c : Config) : Bool :=
  decide (0 < c.sampleRate.num) && decide (0 < c.sampleRate.den) && decide (0 < c.preferredFrameRate.den) &&
    decide (0 < c.cpuClockHz.den) && decide (1 ≤ c.haltChunk)

end Sys2Proof
end

