-- ==== Sys2Proof/Syntax.lean ====
section
/-!
DEFINITION. The instruction set as syntax: the 13 addressing modes (30_encoding.md rule R125), an operand with its operand
bytes, the 70 instruction kinds (R146), and `Instr`, one constructor per mnemonic of spec/opcode_table.json (the rows of one
mnemonic differ in the addressing mode, which is the operand, or in the opcode byte of an undocumented copy, which is a field).
-/

namespace Sys2Proof

/-- The 13 addressing modes, in the order of R125. -/
inductive Mode where
  | zp | rel | imp | abs | acc | imm | zpx | zpy | absx | absy | indx | indy | ind
  deriving DecidableEq, Repr

/-- An operand: its addressing mode with the operand bytes that stand in the instruction (R124). -/
inductive Operand where
  | zp (op1 : Byte)
  | rel (op1 : Byte)
  | imp
  | abs (op16 : Word)
  | acc
  | imm (op1 : Byte)
  | zpx (op1 : Byte)
  | zpy (op1 : Byte)
  | absx (op16 : Word)
  | absy (op16 : Word)
  | indx (op1 : Byte)
  | indy (op1 : Byte)
  | ind (op16 : Word)
  deriving DecidableEq, Repr

/-- The 70 instruction kinds, in the order of the descriptor's kind field (R146). -/
inductive Kind where
  | adc | and | asl | bcc | bcs | beq | bit | bmi | bne | bpl | brk | bvc | bvs | clc | cld | cli | clv | cmp
  | cpx | cpy | dec | dex | dey | eor | inc | inx | iny | jmp | jsr | lda | ldx | ldy | lsr | nop | ora | pha
  | php | pla | plp | rol | ror | rti | rts | sbc | sec | sed | sei | sta | stx | sty | tax | tay | tsx | txa
  | txs | tya | alr | anc | arr | axs | lax | sax | dcp | isc | rla | rra | slo | sre | skb | ign
  deriving DecidableEq, Repr

/-- The instructions. A constructor whose kind has opcodes that differ in nothing but their number (NOP, SKB, ANC, IGN) and
the unfilled slots of R144 carry the opcode byte, so that no encoding is lost. -/
inductive Instr where
  /-- ADC, R191. -/
  | adc (m : Operand)
  /-- AND, R193. -/
  | and (m : Operand)
  /-- ASL, R221. -/
  | asl (m : Operand)
  /-- BCC, R251. -/
  | bcc (disp : Byte)
  /-- BCS, R252. -/
  | bcs (disp : Byte)
  /-- BEQ, R253. -/
  | beq (disp : Byte)
  /-- BIT, R199. -/
  | bit (m : Operand)
  /-- BMI, R255. -/
  | bmi (disp : Byte)
  /-- BNE, R254. -/
  | bne (disp : Byte)
  /-- BPL, R256. -/
  | bpl (disp : Byte)
  /-- BRK, R262. -/
  | brk
  /-- BVC, R257. -/
  | bvc (disp : Byte)
  /-- BVS, R258. -/
  | bvs (disp : Byte)
  /-- CLC, R280. -/
  | clc
  /-- CLD, R284. -/
  | cld
  /-- CLI, R282. -/
  | cli
  /-- CLV, R286. -/
  | clv
  /-- CMP, R196. -/
  | cmp (m : Operand)
  /-- CPX, R197. -/
  | cpx (m : Operand)
  /-- CPY, R198. -/
  | cpy (m : Operand)
  /-- DEC, R226. -/
  | dec (m : Operand)
  /-- DEX, R229. -/
  | dex
  /-- DEY, R230. -/
  | dey
  /-- EOR, R195. -/
  | eor (m : Operand)
  /-- INC, R225. -/
  | inc (m : Operand)
  /-- INX, R227. -/
  | inx
  /-- INY, R228. -/
  | iny
  /-- JMP, R259. -/
  | jmp (m : Operand)
  /-- JSR, R260. -/
  | jsr (target : Word)
  /-- LDA, R161. -/
  | lda (m : Operand)
  /-- LDX, R162. -/
  | ldx (m : Operand)
  /-- LDY, R163. -/
  | ldy (m : Operand)
  /-- LSR, R222. -/
  | lsr (m : Operand)
  /-- NOP, R295. -/
  | nop (opcode : Byte)
  /-- ORA, R194. -/
  | ora (m : Operand)
  /-- PHA, R290. -/
  | pha
  /-- PHP, R292. -/
  | php
  /-- PLA, R291. -/
  | pla
  /-- PLP, R293. -/
  | plp
  /-- ROL, R223. -/
  | rol (m : Operand)
  /-- ROR, R224. -/
  | ror (m : Operand)
  /-- RTI, R263. -/
  | rti
  /-- RTS, R261. -/
  | rts
  /-- SBC, R192. -/
  | sbc (m : Operand)
  /-- SEC, R281. -/
  | sec
  /-- SED, R285. -/
  | sed
  /-- SEI, R283. -/
  | sei
  /-- STA, R164. -/
  | sta (m : Operand)
  /-- STX, R165. -/
  | stx (m : Operand)
  /-- STY, R166. -/
  | sty (m : Operand)
  /-- TAX, R167. -/
  | tax
  /-- TAY, R168. -/
  | tay
  /-- TSX, R169. -/
  | tsx
  /-- TXA, R170. -/
  | txa
  /-- TXS, R171. -/
  | txs
  /-- TYA, R172. -/
  | tya
  /-- ALR, R200. -/
  | alr (imm : Byte)
  /-- ANC, R201. -/
  | anc (opcode imm : Byte)
  /-- ARR, R202. -/
  | arr (imm : Byte)
  /-- AXS, R203. -/
  | axs (imm : Byte)
  /-- LAX, R173. -/
  | lax (m : Operand)
  /-- SAX, R174. -/
  | sax (m : Operand)
  /-- DCP, R235. -/
  | dcp (m : Operand)
  /-- ISC, R236. -/
  | isc (m : Operand)
  /-- RLA, R233. -/
  | rla (m : Operand)
  /-- RRA, R234. -/
  | rra (m : Operand)
  /-- SLO, R231. -/
  | slo (m : Operand)
  /-- SRE, R232. -/
  | sre (m : Operand)
  /-- SKB, R296. -/
  | skb (opcode imm : Byte)
  /-- IGN, R297. -/
  | ign (opcode : Byte) (m : Operand)
  /-- One of the 21 unfilled slots, R144: executing it raises `IllegalOpcodeHalt` (60_exceptions.md rule R500). -/
  | unfilled (opcode : Byte)
  deriving DecidableEq, Repr

end Sys2Proof
end

