-- ==== Sys2Proof/WellFormed.lean ====
section
/-!
DEFINITION. Which instruction terms the encoding admits: the addressing modes each kind has (the Encodings lines of files 40 to 44)
and the opcode bytes of the copies (R144, R201, R295 to R297).
-/

namespace Sys2Proof

/-- The mode of an operand (R125). -/
def Operand.mode : Operand → Mode
  | .zp _ => .zp | .rel _ => .rel | .imp => .imp | .abs _ => .abs | .acc => .acc | .imm _ => .imm
  | .zpx _ => .zpx | .zpy _ => .zpy | .absx _ => .absx | .absy _ => .absy
  | .indx _ => .indx | .indy _ => .indy | .ind _ => .ind

/-- The modes of ADC, AND, CMP, EOR, LDA, ORA, SBC (R161, R191 to R196). -/
def aluModes : List Mode := [.imm, .zp, .zpx, .abs, .absx, .absy, .indx, .indy]

/-- The modes of the memory and accumulator forms of ASL, LSR, ROL, ROR (R221 to R224). -/
def shiftModes : List Mode := [.acc, .zp, .zpx, .abs, .absx]

/-- The modes of INC and DEC (R225, R226). -/
def incDecModes : List Mode := [.zp, .zpx, .abs, .absx]

/-- The modes of SLO, SRE, RLA, RRA, DCP, ISC (R231 to R236). -/
def comboModes : List Mode := [.indx, .zp, .abs, .indy, .zpx, .absy, .absx]

/-- The seven opcodes of NOP (R295). -/
def nopOpcodes : List Byte := [0x1A, 0x3A, 0x5A, 0x7A, 0xDA, 0xEA, 0xFA]

/-- The five opcodes of SKB (R296). -/
def skbOpcodes : List Byte := [0x80, 0x82, 0x89, 0xC2, 0xE2]

/-- The two opcodes of ANC (R201). -/
def ancOpcodes : List Byte := [0x0B, 0x2B]

/-- The opcodes of IGN by mode (R297). -/
def ignOpcodes : Mode → List Byte
  | .abs => [0x0C]
  | .absx => [0x1C, 0x3C, 0x5C, 0x7C, 0xDC, 0xFC]
  | .zp => [0x04, 0x44, 0x64]
  | .zpx => [0x14, 0x34, 0x54, 0x74, 0xD4, 0xF4]
  | _ => []

/-- The 21 unfilled slots (R144). -/
def unfilledOpcodes : List Byte :=
  [0x02, 0x12, 0x22, 0x32, 0x42, 0x52, 0x62, 0x72, 0x92, 0xB2, 0xD2, 0xF2] ++
  [0x8B, 0x93, 0x9B, 0x9C, 0x9E, 0x9F, 0xAB, 0xBB, 0xEB]

/-- The encoding admits the instruction. -/
def WellFormed : Instr → Bool
  | .adc m | .and m | .cmp m | .eor m | .lda m | .ora m | .sbc m => m.mode ∈ aluModes
  | .asl m | .lsr m | .rol m | .ror m => m.mode ∈ shiftModes
  | .inc m | .dec m => m.mode ∈ incDecModes
  | .dcp m | .isc m | .rla m | .rra m | .slo m | .sre m => m.mode ∈ comboModes
  | .bit m => m.mode ∈ [Mode.zp, .abs]
  | .cpx m | .cpy m => m.mode ∈ [Mode.imm, .zp, .abs]
  | .jmp m => m.mode ∈ [Mode.abs, .ind]
  | .ldx m => m.mode ∈ [Mode.imm, .zp, .zpy, .abs, .absy]
  | .ldy m => m.mode ∈ [Mode.imm, .zp, .zpx, .abs, .absx]
  | .sta m => m.mode ∈ [Mode.zp, .zpx, .abs, .absx, .absy, .indx, .indy]
  | .stx m => m.mode ∈ [Mode.zp, .zpy, .abs]
  | .sty m => m.mode ∈ [Mode.zp, .zpx, .abs]
  | .lax m => m.mode ∈ [Mode.zp, .zpy, .abs, .absy, .indx, .indy]
  | .sax m => m.mode ∈ [Mode.zp, .zpy, .abs, .indx]
  | .nop op => op ∈ nopOpcodes
  | .skb op _ => op ∈ skbOpcodes
  | .anc op _ => op ∈ ancOpcodes
  | .ign op m => op ∈ ignOpcodes m.mode
  | .unfilled op => op ∈ unfilledOpcodes
  | .bcc _ | .bcs _ | .beq _ | .bmi _ | .bne _ | .bpl _ | .bvc _ | .bvs _ => true
  | .jsr _ | .alr _ | .arr _ | .axs _ => true
  | .brk | .clc | .cld | .cli | .clv | .dex | .dey | .inx | .iny | .pha | .php | .pla | .plp => true
  | .rti | .rts | .sec | .sed | .sei | .tax | .tay | .tsx | .txa | .txs | .tya => true

end Sys2Proof
end

