-- ==== Sys2Proof/Decode.lean ====
section
/-!
DEFINITION. Decoding and encoding: the 256-entry descriptor table (10_state.md rule R39, 30_encoding.md rules R143 and R146), the
decoder (R120, R124: the opcode byte alone selects kind, mode and length; operand bytes follow, low byte first) and the encoder.
Every opcode byte has a meaning (an unfilled slot decodes to `unfilled`), so the decoder rejects a byte list only when it is too short.
-/

namespace Sys2Proof

/-- An entry of the descriptor table: "instruction kind, addressing mode, instruction byte length, base cycle count" (R120). -/
structure Descriptor where
  kind : Kind
  mode : Mode
  length : Nat
  cycles : Nat
  deriving DecidableEq, Repr

/-- A filled slot. -/
def filled (kind : Kind) (mode : Mode) (length cycles : Nat) : Option Descriptor := some ⟨kind, mode, length, cycles⟩

/-- Row 0x of the opcode map (R143, with the lengths and base cycles of R146). -/
def opcodeRow0 : List (Option Descriptor) :=
  [filled .brk .imp 1 7, filled .ora .indx 2 6, none, filled .slo .indx 2 8,
   filled .ign .zp 2 3, filled .ora .zp 2 3, filled .asl .zp 2 5, filled .slo .zp 2 5,
   filled .php .imp 1 3, filled .ora .imm 2 2, filled .asl .acc 1 2, filled .anc .imm 2 2,
   filled .ign .abs 3 4, filled .ora .abs 3 4, filled .asl .abs 3 6, filled .slo .abs 3 6]

/-- Row 1x of the opcode map (R143, with the lengths and base cycles of R146). -/
def opcodeRow1 : List (Option Descriptor) :=
  [filled .bpl .rel 2 2, filled .ora .indy 2 5, none, filled .slo .indy 2 8,
   filled .ign .zpx 2 4, filled .ora .zpx 2 4, filled .asl .zpx 2 6, filled .slo .zpx 2 6,
   filled .clc .imp 1 2, filled .ora .absy 3 4, filled .nop .imp 1 2, filled .slo .absy 3 7,
   filled .ign .absx 3 4, filled .ora .absx 3 4, filled .asl .absx 3 7, filled .slo .absx 3 7]

/-- Row 2x of the opcode map (R143, with the lengths and base cycles of R146). -/
def opcodeRow2 : List (Option Descriptor) :=
  [filled .jsr .abs 3 6, filled .and .indx 2 6, none, filled .rla .indx 2 8,
   filled .bit .zp 2 3, filled .and .zp 2 3, filled .rol .zp 2 5, filled .rla .zp 2 5,
   filled .plp .imp 1 4, filled .and .imm 2 2, filled .rol .acc 1 2, filled .anc .imm 2 2,
   filled .bit .abs 3 4, filled .and .abs 3 4, filled .rol .abs 3 6, filled .rla .abs 3 6]

/-- Row 3x of the opcode map (R143, with the lengths and base cycles of R146). -/
def opcodeRow3 : List (Option Descriptor) :=
  [filled .bmi .rel 2 2, filled .and .indy 2 5, none, filled .rla .indy 2 8,
   filled .ign .zpx 2 4, filled .and .zpx 2 4, filled .rol .zpx 2 6, filled .rla .zpx 2 6,
   filled .sec .imp 1 2, filled .and .absy 3 4, filled .nop .imp 1 2, filled .rla .absy 3 7,
   filled .ign .absx 3 4, filled .and .absx 3 4, filled .rol .absx 3 7, filled .rla .absx 3 7]

/-- Row 4x of the opcode map (R143, with the lengths and base cycles of R146). -/
def opcodeRow4 : List (Option Descriptor) :=
  [filled .rti .imp 1 6, filled .eor .indx 2 6, none, filled .sre .indx 2 8,
   filled .ign .zp 2 3, filled .eor .zp 2 3, filled .lsr .zp 2 5, filled .sre .zp 2 5,
   filled .pha .imp 1 3, filled .eor .imm 2 2, filled .lsr .acc 1 2, filled .alr .imm 2 2,
   filled .jmp .abs 3 3, filled .eor .abs 3 4, filled .lsr .abs 3 6, filled .sre .abs 3 6]

/-- Row 5x of the opcode map (R143, with the lengths and base cycles of R146). -/
def opcodeRow5 : List (Option Descriptor) :=
  [filled .bvc .rel 2 2, filled .eor .indy 2 5, none, filled .sre .indy 2 8,
   filled .ign .zpx 2 4, filled .eor .zpx 2 4, filled .lsr .zpx 2 6, filled .sre .zpx 2 6,
   filled .cli .imp 1 2, filled .eor .absy 3 4, filled .nop .imp 1 2, filled .sre .absy 3 7,
   filled .ign .absx 3 4, filled .eor .absx 3 4, filled .lsr .absx 3 7, filled .sre .absx 3 7]

/-- Row 6x of the opcode map (R143, with the lengths and base cycles of R146). -/
def opcodeRow6 : List (Option Descriptor) :=
  [filled .rts .imp 1 6, filled .adc .indx 2 6, none, filled .rra .indx 2 8,
   filled .ign .zp 2 3, filled .adc .zp 2 3, filled .ror .zp 2 5, filled .rra .zp 2 5,
   filled .pla .imp 1 4, filled .adc .imm 2 2, filled .ror .acc 1 2, filled .arr .imm 2 2,
   filled .jmp .ind 3 5, filled .adc .abs 3 4, filled .ror .abs 3 6, filled .rra .abs 3 6]

/-- Row 7x of the opcode map (R143, with the lengths and base cycles of R146). -/
def opcodeRow7 : List (Option Descriptor) :=
  [filled .bvs .rel 2 2, filled .adc .indy 2 5, none, filled .rra .indy 2 8,
   filled .ign .zpx 2 4, filled .adc .zpx 2 4, filled .ror .zpx 2 6, filled .rra .zpx 2 6,
   filled .sei .imp 1 2, filled .adc .absy 3 4, filled .nop .imp 1 2, filled .rra .absy 3 7,
   filled .ign .absx 3 4, filled .adc .absx 3 4, filled .ror .absx 3 7, filled .rra .absx 3 7]

/-- Row 8x of the opcode map (R143, with the lengths and base cycles of R146). -/
def opcodeRow8 : List (Option Descriptor) :=
  [filled .skb .imm 2 2, filled .sta .indx 2 6, filled .skb .imm 2 2, filled .sax .indx 2 6,
   filled .sty .zp 2 3, filled .sta .zp 2 3, filled .stx .zp 2 3, filled .sax .zp 2 3,
   filled .dey .imp 1 2, filled .skb .imm 2 2, filled .txa .imp 1 2, none,
   filled .sty .abs 3 4, filled .sta .abs 3 4, filled .stx .abs 3 4, filled .sax .abs 3 4]

/-- Row 9x of the opcode map (R143, with the lengths and base cycles of R146). -/
def opcodeRow9 : List (Option Descriptor) :=
  [filled .bcc .rel 2 2, filled .sta .indy 2 6, none, none,
   filled .sty .zpx 2 4, filled .sta .zpx 2 4, filled .stx .zpy 2 4, filled .sax .zpy 2 4,
   filled .tya .imp 1 2, filled .sta .absy 3 5, filled .txs .imp 1 2, none,
   none, filled .sta .absx 3 5, none, none]

/-- Row Ax of the opcode map (R143, with the lengths and base cycles of R146). -/
def opcodeRowA : List (Option Descriptor) :=
  [filled .ldy .imm 2 2, filled .lda .indx 2 6, filled .ldx .imm 2 2, filled .lax .indx 2 6,
   filled .ldy .zp 2 3, filled .lda .zp 2 3, filled .ldx .zp 2 3, filled .lax .zp 2 3,
   filled .tay .imp 1 2, filled .lda .imm 2 2, filled .tax .imp 1 2, none,
   filled .ldy .abs 3 4, filled .lda .abs 3 4, filled .ldx .abs 3 4, filled .lax .abs 3 4]

/-- Row Bx of the opcode map (R143, with the lengths and base cycles of R146). -/
def opcodeRowB : List (Option Descriptor) :=
  [filled .bcs .rel 2 2, filled .lda .indy 2 5, none, filled .lax .indy 2 5,
   filled .ldy .zpx 2 4, filled .lda .zpx 2 4, filled .ldx .zpy 2 4, filled .lax .zpy 2 4,
   filled .clv .imp 1 2, filled .lda .absy 3 4, filled .tsx .imp 1 2, none,
   filled .ldy .absx 3 4, filled .lda .absx 3 4, filled .ldx .absy 3 4, filled .lax .absy 3 4]

/-- Row Cx of the opcode map (R143, with the lengths and base cycles of R146). -/
def opcodeRowC : List (Option Descriptor) :=
  [filled .cpy .imm 2 2, filled .cmp .indx 2 6, filled .skb .imm 2 2, filled .dcp .indx 2 8,
   filled .cpy .zp 2 3, filled .cmp .zp 2 3, filled .dec .zp 2 5, filled .dcp .zp 2 5,
   filled .iny .imp 1 2, filled .cmp .imm 2 2, filled .dex .imp 1 2, filled .axs .imm 2 2,
   filled .cpy .abs 3 4, filled .cmp .abs 3 4, filled .dec .abs 3 6, filled .dcp .abs 3 6]

/-- Row Dx of the opcode map (R143, with the lengths and base cycles of R146). -/
def opcodeRowD : List (Option Descriptor) :=
  [filled .bne .rel 2 2, filled .cmp .indy 2 5, none, filled .dcp .indy 2 8,
   filled .ign .zpx 2 4, filled .cmp .zpx 2 4, filled .dec .zpx 2 6, filled .dcp .zpx 2 6,
   filled .cld .imp 1 2, filled .cmp .absy 3 4, filled .nop .imp 1 2, filled .dcp .absy 3 7,
   filled .ign .absx 3 4, filled .cmp .absx 3 4, filled .dec .absx 3 7, filled .dcp .absx 3 7]

/-- Row Ex of the opcode map (R143, with the lengths and base cycles of R146). -/
def opcodeRowE : List (Option Descriptor) :=
  [filled .cpx .imm 2 2, filled .sbc .indx 2 6, filled .skb .imm 2 2, filled .isc .indx 2 8,
   filled .cpx .zp 2 3, filled .sbc .zp 2 3, filled .inc .zp 2 5, filled .isc .zp 2 5,
   filled .inx .imp 1 2, filled .sbc .imm 2 2, filled .nop .imp 1 2, none,
   filled .cpx .abs 3 4, filled .sbc .abs 3 4, filled .inc .abs 3 6, filled .isc .abs 3 6]

/-- Row Fx of the opcode map (R143, with the lengths and base cycles of R146). -/
def opcodeRowF : List (Option Descriptor) :=
  [filled .beq .rel 2 2, filled .sbc .indy 2 5, none, filled .isc .indy 2 8,
   filled .ign .zpx 2 4, filled .sbc .zpx 2 4, filled .inc .zpx 2 6, filled .isc .zpx 2 6,
   filled .sed .imp 1 2, filled .sbc .absy 3 4, filled .nop .imp 1 2, filled .isc .absy 3 7,
   filled .ign .absx 3 4, filled .sbc .absx 3 4, filled .inc .absx 3 7, filled .isc .absx 3 7]

/-- `opdata[0..255]`, "a fixed 256-entry table built once at startup" (R39, R120). -/
def opcodeTable : List (Option Descriptor) :=
  opcodeRow0 ++ opcodeRow1 ++ opcodeRow2 ++ opcodeRow3 ++ opcodeRow4 ++ opcodeRow5 ++ opcodeRow6 ++ opcodeRow7 ++
  opcodeRow8 ++ opcodeRow9 ++ opcodeRowA ++ opcodeRowB ++ opcodeRowC ++ opcodeRowD ++ opcodeRowE ++ opcodeRowF

/-- `opdata[opcode]`; `none` is the unfilled marker. -/
def opdata (opcode : Byte) : Option Descriptor := opcodeTable.getD opcode.toNat none

/-- The byte length of an instruction of each mode (R125). -/
def Mode.length : Mode → Nat
  | .imp | .acc => 1
  | .zp | .rel | .imm | .zpx | .zpy | .indx | .indy => 2
  | .abs | .absx | .absy | .ind => 3

/-- The operand of a mode, from the two bytes after the opcode (R124; `op16` is little-endian). -/
def Mode.operand (m : Mode) (op1 op2 : Byte) : Operand :=
  match m with
  | .zp => .zp op1
  | .rel => .rel op1
  | .imp => .imp
  | .abs => .abs (wordOf op1 op2)
  | .acc => .acc
  | .imm => .imm op1
  | .zpx => .zpx op1
  | .zpy => .zpy op1
  | .absx => .absx (wordOf op1 op2)
  | .absy => .absy (wordOf op1 op2)
  | .indx => .indx op1
  | .indy => .indy op1
  | .ind => .ind (wordOf op1 op2)

/-- The operand bytes of an operand, in memory order (R124, R85). -/
def Operand.bytes : Operand → List Byte
  | .imp | .acc => []
  | .zp b | .rel b | .imm b | .zpx b | .zpy b | .indx b | .indy b => [b]
  | .abs w | .absx w | .absy w | .ind w => [loByte w, hiByte w]

/-- The instruction of a kind, with its opcode byte, operand and first two operand bytes. -/
def Kind.instr (k : Kind) (opcode : Byte) (m : Operand) (op1 op2 : Byte) : Instr :=
  match k with
  | .adc => .adc m
  | .and => .and m
  | .asl => .asl m
  | .bcc => .bcc op1
  | .bcs => .bcs op1
  | .beq => .beq op1
  | .bit => .bit m
  | .bmi => .bmi op1
  | .bne => .bne op1
  | .bpl => .bpl op1
  | .brk => .brk
  | .bvc => .bvc op1
  | .bvs => .bvs op1
  | .clc => .clc
  | .cld => .cld
  | .cli => .cli
  | .clv => .clv
  | .cmp => .cmp m
  | .cpx => .cpx m
  | .cpy => .cpy m
  | .dec => .dec m
  | .dex => .dex
  | .dey => .dey
  | .eor => .eor m
  | .inc => .inc m
  | .inx => .inx
  | .iny => .iny
  | .jmp => .jmp m
  | .jsr => .jsr (wordOf op1 op2)
  | .lda => .lda m
  | .ldx => .ldx m
  | .ldy => .ldy m
  | .lsr => .lsr m
  | .nop => .nop opcode
  | .ora => .ora m
  | .pha => .pha
  | .php => .php
  | .pla => .pla
  | .plp => .plp
  | .rol => .rol m
  | .ror => .ror m
  | .rti => .rti
  | .rts => .rts
  | .sbc => .sbc m
  | .sec => .sec
  | .sed => .sed
  | .sei => .sei
  | .sta => .sta m
  | .stx => .stx m
  | .sty => .sty m
  | .tax => .tax
  | .tay => .tay
  | .tsx => .tsx
  | .txa => .txa
  | .txs => .txs
  | .tya => .tya
  | .alr => .alr op1
  | .anc => .anc opcode op1
  | .arr => .arr op1
  | .axs => .axs op1
  | .lax => .lax m
  | .sax => .sax m
  | .dcp => .dcp m
  | .isc => .isc m
  | .rla => .rla m
  | .rra => .rra m
  | .slo => .slo m
  | .sre => .sre m
  | .skb => .skb opcode op1
  | .ign => .ign opcode m

/-- The instruction whose opcode byte and (if it has them) operand bytes are these three (R120, R124). -/
def decodeBytes (opcode op1 op2 : Byte) : Instr :=
  match opdata opcode with
  | none => .unfilled opcode
  | some d => d.kind.instr opcode (d.mode.operand op1 op2) op1 op2

/-- The byte length the opcode byte selects (R120); an unfilled slot is the opcode byte alone (R500: the operand bytes are not read). -/
def opcodeLength (opcode : Byte) : Nat := (opdata opcode).elim 1 (·.length)

/-- Why a byte list does not decode. -/
inductive DecodeError where
  /-- There is no opcode byte. -/
  | noOpcode
  /-- The list ends before the operand bytes that the opcode's length calls for. -/
  | missingOperand (opcode : Byte)
  deriving DecidableEq, Repr

/-- The first instruction of a byte list, with the bytes after it. -/
def decode : List Byte → Except DecodeError (Instr × List Byte)
  | [] => .error .noOpcode
  | opcode :: rest =>
    if rest.length + 1 < opcodeLength opcode then .error (.missingOperand opcode)
    else .ok (decodeBytes opcode (rest.getD 0 0) (rest.getD 1 0), rest.drop (opcodeLength opcode - 1))

/-- The instruction the decoder reads from the bits `w`, bit 0 the least significant of the first byte; bits at and above `nbits` are 0. -/
def decodeTableWord (nbits w : Nat) : Option Instr :=
  let v := w % 2 ^ nbits
  match decode [BitVec.ofNat 8 v, BitVec.ofNat 8 (v / 256), BitVec.ofNat 8 (v / 65536)] with
  | .ok (i, _) => some i
  | .error _ => none

/-- The first opcode the table gives to a kind and mode. -/
def findOpcode (k : Kind) (m : Mode) : Option Byte :=
  (opcodeTable.findIdx? fun d => d.any fun d => d.kind == k && d.mode == m).map (BitVec.ofNat 8)

/-- The base cycle count the table gives to a kind and mode (R146); 0 for a pair no opcode has. -/
def baseCycles (k : Kind) (m : Mode) : Nat :=
  (opcodeTable.findSome? fun d => d.bind fun d => if d.kind == k && d.mode == m then some d.cycles else none).getD 0

/-- The kind of an instruction; an unfilled slot has none. -/
def Instr.kind : Instr → Option Kind
  | .adc _ => some .adc
  | .and _ => some .and
  | .asl _ => some .asl
  | .bcc _ => some .bcc
  | .bcs _ => some .bcs
  | .beq _ => some .beq
  | .bit _ => some .bit
  | .bmi _ => some .bmi
  | .bne _ => some .bne
  | .bpl _ => some .bpl
  | .brk => some .brk
  | .bvc _ => some .bvc
  | .bvs _ => some .bvs
  | .clc => some .clc
  | .cld => some .cld
  | .cli => some .cli
  | .clv => some .clv
  | .cmp _ => some .cmp
  | .cpx _ => some .cpx
  | .cpy _ => some .cpy
  | .dec _ => some .dec
  | .dex => some .dex
  | .dey => some .dey
  | .eor _ => some .eor
  | .inc _ => some .inc
  | .inx => some .inx
  | .iny => some .iny
  | .jmp _ => some .jmp
  | .jsr _ => some .jsr
  | .lda _ => some .lda
  | .ldx _ => some .ldx
  | .ldy _ => some .ldy
  | .lsr _ => some .lsr
  | .nop _ => some .nop
  | .ora _ => some .ora
  | .pha => some .pha
  | .php => some .php
  | .pla => some .pla
  | .plp => some .plp
  | .rol _ => some .rol
  | .ror _ => some .ror
  | .rti => some .rti
  | .rts => some .rts
  | .sbc _ => some .sbc
  | .sec => some .sec
  | .sed => some .sed
  | .sei => some .sei
  | .sta _ => some .sta
  | .stx _ => some .stx
  | .sty _ => some .sty
  | .tax => some .tax
  | .tay => some .tay
  | .tsx => some .tsx
  | .txa => some .txa
  | .txs => some .txs
  | .tya => some .tya
  | .alr _ => some .alr
  | .anc _ _ => some .anc
  | .arr _ => some .arr
  | .axs _ => some .axs
  | .lax _ => some .lax
  | .sax _ => some .sax
  | .dcp _ => some .dcp
  | .isc _ => some .isc
  | .rla _ => some .rla
  | .rra _ => some .rra
  | .slo _ => some .slo
  | .sre _ => some .sre
  | .skb _ _ => some .skb
  | .ign _ _ => some .ign
  | .unfilled _ => none

/-- The operand of an instruction, the operand bytes of its encoding. -/
def Instr.operand : Instr → Operand
  | .adc m | .and m | .asl m | .bit m | .cmp m | .cpx m | .cpy m | .dec m | .eor m | .inc m | .jmp m | .lda m
  | .ldx m | .ldy m | .lsr m | .ora m | .rol m | .ror m | .sbc m | .sta m | .stx m | .sty m | .lax m | .sax m
  | .dcp m | .isc m | .rla m | .rra m | .slo m | .sre m => m
  | .ign _ m => m
  | .bcc d | .bcs d | .beq d | .bmi d | .bne d | .bpl d | .bvc d | .bvs d => .rel d
  | .alr v | .arr v | .axs v => .imm v
  | .anc _ v | .skb _ v => .imm v
  | .jsr w => .abs w
  | .nop _ | .unfilled _ => .imp
  | .brk | .clc | .cld | .cli | .clv | .dex | .dey | .inx | .iny | .pha | .php | .pla | .plp | .rti | .rts
  | .sec | .sed | .sei | .tax | .tay | .tsx | .txa | .txs | .tya => .imp

/-- The opcode byte of an instruction: the field of a kind with copies, else the table's opcode for its kind and mode. -/
def Instr.opcode (i : Instr) : Option Byte :=
  match i with
  | .nop op | .skb op _ | .anc op _ | .ign op _ | .unfilled op => some op
  | i => i.kind.bind fun k => findOpcode k i.operand.mode

/-- The bytes of a well-formed instruction in memory order (R124). -/
def encode (i : Instr) : List Byte := (i.opcode).getD 0 :: i.operand.bytes

end Sys2Proof
end

