-- ==== Sys2Proof/Machine/Store.lean ====
section
/-!
DEFINITION. The two stores the machine's arrays are held in, both plain data in one canonical form: a sparse byte store (a list of
address and byte pairs) for `mem`, `vram` and `spriteMem` (10_state.md rules R38, R42, R43), and a binary tree for the
pixel buffers of 256 by 240 entries (rule R51).
-/

namespace Sys2Proof.Machine

/-- The byte at address `a`; an unlisted address reads as `d a`. -/
def Cells.get (d : Nat → Byte) : List Host.Cell → Nat → Byte
  | [], a => d a
  | (k, v) :: m, a => if k = a then v else Cells.get d m a

/-- The listed entries of a run of bytes at `base`, `base + 1`, ...: those that differ from what an unlisted address reads as. -/
def Cells.run (d : Nat → Byte) : Nat → List Byte → List Host.Cell
  | _, [] => []
  | base, b :: bs => if b = d base then Cells.run d (base + 1) bs else (base, b) :: Cells.run d (base + 1) bs

/-- The store after the bytes `bs` are written at `base`, `base + 1`, ... -/
def Cells.write (d : Nat → Byte) (m : List Host.Cell) (base : Nat) (bs : List Byte) : List Host.Cell :=
  m.filter (fun c => decide (c.1 < base)) ++ Cells.run d base bs ++
    m.filter (fun c => decide (base + bs.length ≤ c.1))

/-- The store after one byte is written. -/
def Cells.set (d : Nat → Byte) (m : List Host.Cell) (a : Nat) (v : Byte) : List Host.Cell :=
  Cells.write d m a [v]

/-- The canonical form: addresses strictly rising and below `size`, and no entry equal to what an unlisted address reads as. -/
abbrev Cells.wf (d : Nat → Byte) (size : Nat) (m : List Host.Cell) : Prop :=
  m.Pairwise (fun x y => x.1 < y.1) ∧ ∀ c ∈ m, c.1 < size ∧ c.2 ≠ d c.1

/-- The `RAM_NOISE` byte of an offset inside a 0x800-byte page; every other offset reads 0xFF (R38). -/
def noiseByte (noise : List (Nat × Byte)) (offset : Nat) : Byte :=
  ((noise.find? fun e => e.1 == offset).map (·.2)).getD 0xFF

/-- What an unlisted address of `mem` reads as: the reset contents of 10_state.md rule R38. -/
def memDefault (cfg : Config) (a : Nat) : Byte :=
  if a < 0x2000 then noiseByte cfg.ramNoise (a % 0x800)
  else if a = 0x2000 then cfg.mem2000Reset
  else 0

/-- `mem` is in canonical form. -/
abbrev Memory.wf (cfg : Config) (m : List Host.Cell) : Prop := Cells.wf (memDefault cfg) 0x10000 m

/-- What an unlisted address of `vram` or `spriteMem` reads as: their reset contents, 0 (R42, R43). -/
def zeroByte (_ : Nat) : Byte := 0

/-- A pixel buffer: a leaf is a block of equal pixels, a node splits a block in two halves. -/
inductive PixTree (α : Type) where
  | leaf (v : α)
  | node (l r : PixTree α)
  deriving DecidableEq, Repr

/-- The depth of a pixel buffer: 2^16 places, of which 256 * 240 are pixels. -/
def pixDepth : Nat := 16

/-- The pixel at index `i` of a block of `2 ^ n` pixels. -/
def PixTree.get {α : Type} : PixTree α → Nat → Nat → α
  | .leaf v, _, _ => v
  | .node l r, n, i => if i.testBit (n - 1) then r.get (n - 1) i else l.get (n - 1) i

/-- A node of two halves; two equal leaves are one leaf. -/
def PixTree.join {α : Type} [DecidableEq α] : PixTree α → PixTree α → PixTree α
  | .leaf x, .leaf y => if x = y then .leaf x else .node (.leaf x) (.leaf y)
  | .leaf x, .node a b => .node (.leaf x) (.node a b)
  | .node a b, r => .node (.node a b) r

/-- The two halves of a block. -/
def PixTree.halves {α : Type} : PixTree α → PixTree α × PixTree α
  | .leaf v => (.leaf v, .leaf v)
  | .node l r => (l, r)

/-- The block after pixel `i` is set to `v`. -/
def PixTree.set {α : Type} [DecidableEq α] : Nat → PixTree α → Nat → α → PixTree α
  | 0, _, _, v => .leaf v
  | n + 1, t, i, v =>
    if i.testBit n then .join t.halves.1 (PixTree.set n t.halves.2 i v)
    else .join (PixTree.set n t.halves.1 i v) t.halves.2

/-- The canonical form: at most `n` levels, and no node of two equal leaves. -/
def PixTree.wf {α : Type} [DecidableEq α] : Nat → PixTree α → Bool
  | _, .leaf _ => true
  | 0, .node _ _ => false
  | n + 1, .node l r => l.wf n && r.wf n && decide (PixTree.join l r = .node l r)

end Sys2Proof.Machine
end

