-- ==== Sys2Proof/Machine/Parts.lean ====
section
/-!
DEFINITION. The parts of the machine as plain data: the CPU registers, the interrupt latch, the controller ports, the PPU, the APU,
the mapper's registers and the cartridge (10_state.md). Field names are the spec's.
-/

namespace Sys2Proof.Machine

/-- The seven one-bit status flags of rule R25, "individually tracked as 0/1 rather than packed". -/
structure Flags where
  c : Bool
  z : Bool
  i : Bool
  d : Bool
  b : Bool
  v : Bool
  n : Bool
  deriving DecidableEq, Repr

/-- The CPU registers (R20 to R25). -/
structure Cpu where
  a : Byte
  x : Byte
  y : Byte
  sp : Byte
  pc : Word
  flags : Flags
  deriving DecidableEq, Repr

/-- The interrupt request latch (R33). -/
structure Irq where
  pending : Bool
  kind : IrqKind
  deriving DecidableEq, Repr

/-- The eight buttons of one controller, in the order of rule R40. -/
structure Buttons where
  a : Bool
  b : Bool
  select : Bool
  start : Bool
  up : Bool
  down : Bool
  left : Bool
  right : Bool
  deriving DecidableEq, Repr

/-- The controller and light-gun state (R40, R41). -/
structure Pads where
  buttons1 : Buttons
  buttons2 : Buttons
  strobe1 : Nat
  strobe2 : Nat
  joypadLastWrite : Byte
  zapper : Option (Nat × Nat)
  zapperFired : Bool
  deriving DecidableEq, Repr

/-- One set of loopy counters (R46): fine Y, the nametable select bits, coarse Y and coarse X. -/
structure Loopy where
  fv : BitVec 3
  v : BitVec 1
  h : BitVec 1
  vt : BitVec 5
  ht : BitVec 5
  deriving DecidableEq, Repr

/-- The mirroring modes of R53. -/
inductive Mirroring where
  | horizontal
  | vertical
  | singleScreen0
  | singleScreen1
  | fourScreen
  deriving DecidableEq, Repr

/-- The picture processing unit (R42 to R55). `ptTile`, `imgPalette`, `sprPalette`, `vramMirrorTable` and `ntable1` are functions of
these fields (R53, R54, R56) and are computed on use. `scanline = -1` exists only inside one rule (R49), so a natural number holds it. -/
structure Ppu where
  vram : List Host.Cell
  spriteMem : List Host.Cell
  sramAddress : Byte
  f_nmiOnVblank : Bool
  f_spriteSize : Bool
  f_bgPatternTable : Bool
  f_spPatternTable : Bool
  f_addrInc : Bool
  f_nTblAddress : BitVec 2
  f_color : BitVec 3
  f_spVisibility : Bool
  f_bgVisibility : Bool
  f_spClipping : Bool
  f_bgClipping : Bool
  f_dispType : Bool
  /-- The temporary set `regFV`, `regV`, `regH`, `regVT`, `regHT`. -/
  reg : Loopy
  /-- The current set `cntFV`, `cntV`, `cntH`, `cntVT`, `cntHT`. -/
  cnt : Loopy
  regFH : BitVec 3
  regS : BitVec 1
  ppuStatus : Byte
  firstWrite : Bool
  vramBufferedReadValue : Byte
  scanline : Nat
  curX : Nat
  requestEndFrame : Bool
  nmiCounter : Int
  dummyCycleToggle : Bool
  buffer : PixTree Color
  bgbuffer : PixTree Color
  pixrendered : PixTree (BitVec 12)
  /-- `spr0HitX, spr0HitY`; `none` is the record -1, -1. -/
  spr0Hit : Option (Nat × Nat)
  hitSpr0 : Bool
  currentMirroring : Option Mirroring
  lastRenderedScanline : Int
  scanlineAlreadyRendered : Bool
  validTileData : Bool
  scantile : List (BitVec 9)
  attrib : List (BitVec 4)
  deriving DecidableEq, Repr

/-- The envelope fields that a pulse and the noise channel share (R58, R60). -/
structure Envelope where
  envDecayDisable : Bool
  envDecayLoopEnable : Bool
  envDecayRate : Nat
  envDecayCounter : Int
  envReset : Bool
  envVolume : Nat
  masterVolume : Nat
  deriving DecidableEq, Repr

/-- A pulse channel (R58). -/
structure Pulse where
  isEnabled : Bool
  lengthCounter : Nat
  lengthCounterEnable : Bool
  progTimerMax : Nat
  progTimerCount : Int
  squareCounter : BitVec 3
  dutyMode : BitVec 2
  env : Envelope
  sweepActive : Bool
  sweepCarry : Bool
  sweepCounter : Int
  sweepCounterMax : Nat
  sweepMode : Bool
  sweepShiftAmount : Nat
  updateSweepPeriod : Bool
  sampleValue : Nat
  deriving DecidableEq, Repr

/-- The triangle channel (R59). -/
structure Triangle where
  isEnabled : Bool
  lengthCounter : Nat
  lengthCounterEnable : Bool
  progTimerMax : Nat
  progTimerCount : Int
  triangleCounter : BitVec 5
  linearCounter : Nat
  linearCounterLoadValue : Nat
  lcHalt : Bool
  lcControl : Bool
  sampleCondition : Bool
  sampleValue : Nat
  deriving DecidableEq, Repr

/-- The noise channel (R60). -/
structure Noise where
  isEnabled : Bool
  lengthCounter : Nat
  lengthCounterEnable : Bool
  progTimerMax : Nat
  progTimerCount : Int
  shiftReg : BitVec 15
  randomMode : Bool
  randomBit : Bool
  env : Envelope
  sampleValue : Nat
  accValue : Nat
  accCount : Nat
  deriving DecidableEq, Repr

/-- The three play modes of the DMC channel (R61). -/
inductive PlayMode where
  | normal
  | loop
  | irq
  deriving DecidableEq, Repr

/-- The delta-modulation channel (R61). -/
structure Dmc where
  isEnabled : Bool
  hasSample : Bool
  irqGenerated : Bool
  playMode : PlayMode
  dmaFrequency : Nat
  dmaCounter : Int
  deltaCounter : Nat
  dacLsb : Bool
  playStartAddress : Word
  playAddress : Word
  playLength : Nat
  playLengthCounter : Nat
  shiftCounter : Int
  data : Byte
  sample : Nat
  deriving DecidableEq, Repr

/-- The audio processing unit (R57). -/
structure Apu where
  frameIrqEnabled : Bool
  frameIrqActive : Bool
  /-- `countSequence`: false for the 4-step, true for the 5-step sequence. -/
  countSequence : Bool
  derivedFrameCounter : Nat
  frameIrqCounterMax : Nat
  masterFrameCounter : Nat
  initCounter : Int
  initingHardware : Bool
  extraCycles : Nat
  sampleTimer : Nat
  accCount : Nat
  smpSquare1 : Nat
  smpSquare2 : Nat
  smpTriangle : Int
  smpDmc : Nat
  triValue : Int
  smpAccumL : Int
  smpAccumR : Int
  prevSampleL : Int
  prevSampleR : Int
  pulse1 : Pulse
  pulse2 : Pulse
  triangle : Triangle
  noise : Noise
  dmc : Dmc
  deriving DecidableEq, Repr

/-- The mapper's registers (R63; the named fields are those of type 4, 47_mapper_cartridge.md rule R450; `regs` are those of an open
kind, rule R452). -/
structure MapperRegs where
  command : BitVec 3
  prgAddressSelect : Bool
  chrAddressSelect : Bool
  prgAddressChanged : Bool
  irqCounter : Int
  irqLatchValue : Nat
  irqEnable : Bool
  regs : List Nat
  deriving DecidableEq, Repr

/-- The cartridge (R64). -/
structure Cart where
  prgBanks : Nat
  chrBanks : Nat
  rom : List (List Byte)
  vrom : List (List Byte)
  /-- `MIRRORING`: true is vertical. -/
  mirroring : Bool
  battery : Bool
  trainer : Bool
  fourScreen : Bool
  mapperType : Nat
  valid : Bool
  deriving DecidableEq, Repr

end Sys2Proof.Machine
end

