-- ==== Sys2Proof/Machine/Reset.lean ====
section
/-!
DEFINITION. The reset values of every part (10_state.md rule R66; 70_reset_and_hazards.md rules R540, R541;
45_ppu.md rule R360; 46_apu.md rule R372; 47_mapper_cartridge.md rule R451).
-/

namespace Sys2Proof.Machine

/-- `SetP(v)` (R30): bit 5 of the byte is ignored. -/
def Flags.ofByte (v : Byte) : Flags where
  c := v.getLsbD 0
  z := v.getLsbD 1
  i := v.getLsbD 2
  d := v.getLsbD 3
  b := v.getLsbD 4
  v := v.getLsbD 6
  n := v.getLsbD 7

/-- `cpu.reset()` (R541). -/
def Cpu.reset (cfg : Config) : Cpu where
  a := 0
  x := 0
  y := 0
  sp := 0xFF
  pc := 0x8000
  flags := Flags.ofByte cfg.resetP

/-- The latch after reset (R33); its kind is unspecified (log entry 5). -/
def Irq.reset (cfg : Config) : Irq := { pending := false, kind := cfg.irqKindReset }

/-- Every button released (R40). -/
def Buttons.released : Buttons where
  a := false
  b := false
  select := false
  start := false
  up := false
  down := false
  left := false
  right := false

/-- The controller ports after reset (R40, R41). -/
def Pads.reset : Pads where
  buttons1 := Buttons.released
  buttons2 := Buttons.released
  strobe1 := 0
  strobe2 := 0
  joypadLastWrite := 0
  zapper := none
  zapperFired := false

/-- All counters 0 (R46). -/
def Loopy.reset : Loopy := { fv := 0, v := 0, h := 0, vt := 0, ht := 0 }

/-- `ppu.reset()` (R360). -/
def Ppu.reset (cfg : Config) : Ppu where
  vram := []
  spriteMem := []
  sramAddress := 0
  f_nmiOnVblank := false
  f_spriteSize := false
  f_bgPatternTable := false
  f_spPatternTable := false
  f_addrInc := false
  f_nTblAddress := 0
  f_color := 0
  f_spVisibility := false
  f_bgVisibility := false
  f_spClipping := false
  f_bgClipping := false
  f_dispType := false
  reg := Loopy.reset
  cnt := Loopy.reset
  regFH := 0
  regS := 0
  ppuStatus := 0
  firstWrite := true
  vramBufferedReadValue := 0
  scanline := 0
  curX := 0
  requestEndFrame := false
  nmiCounter := 0
  dummyCycleToggle := false
  buffer := .leaf cfg.bufferReset
  bgbuffer := .leaf cfg.bufferReset
  pixrendered := .leaf cfg.pixrenderedReset
  spr0Hit := none
  hitSpr0 := false
  currentMirroring := none
  lastRenderedScanline := -1
  scanlineAlreadyRendered := false
  validTileData := false
  scantile := List.replicate 32 0
  attrib := List.replicate 32 0

/-- The envelope after reset (R372). -/
def Envelope.reset : Envelope where
  envDecayDisable := false
  envDecayLoopEnable := false
  envDecayRate := 0
  envDecayCounter := 0
  envReset := true
  envVolume := 0
  masterVolume := 0

/-- A pulse channel after reset (R372). -/
def Pulse.reset : Pulse where
  isEnabled := false
  lengthCounter := 0
  lengthCounterEnable := false
  progTimerMax := 0
  progTimerCount := 0
  squareCounter := 0
  dutyMode := 0
  env := Envelope.reset
  sweepActive := false
  sweepCarry := false
  sweepCounter := 0
  sweepCounterMax := 0
  sweepMode := false
  sweepShiftAmount := 0
  updateSweepPeriod := true
  sampleValue := 0

/-- The triangle channel after reset (R372). -/
def Triangle.reset : Triangle where
  isEnabled := false
  lengthCounter := 0
  lengthCounterEnable := false
  progTimerMax := 0
  progTimerCount := 0
  triangleCounter := 0
  linearCounter := 0
  linearCounterLoadValue := 0
  lcHalt := true
  lcControl := false
  sampleCondition := false
  sampleValue := 0x0F

/-- The noise channel after reset (R372). -/
def Noise.reset : Noise where
  isEnabled := false
  lengthCounter := 0
  lengthCounterEnable := false
  progTimerMax := 0
  progTimerCount := 0
  shiftReg := 1
  randomMode := false
  randomBit := false
  env := Envelope.reset
  sampleValue := 0
  accValue := 0
  accCount := 1

/-- The DMC channel after reset (R372). -/
def Dmc.reset : Dmc where
  isEnabled := false
  hasSample := false
  irqGenerated := false
  playMode := .normal
  dmaFrequency := 0
  dmaCounter := 0
  deltaCounter := 0
  dacLsb := false
  playStartAddress := 0
  playAddress := 0
  playLength := 0
  playLengthCounter := 0
  shiftCounter := 0
  data := 0
  sample := 0

/-- `apu.reset()` (R372). -/
def Apu.reset (cfg : Config) : Apu where
  frameIrqEnabled := false
  frameIrqActive := false
  countSequence := false
  derivedFrameCounter := 4
  frameIrqCounterMax := 4
  masterFrameCounter := 0
  initCounter := cfg.apuInitWindow
  initingHardware := false
  extraCycles := 0
  sampleTimer := 0
  accCount := 0
  smpSquare1 := 0
  smpSquare2 := 0
  smpTriangle := 0
  smpDmc := 0
  triValue := 0
  smpAccumL := 0
  smpAccumR := 0
  prevSampleL := 0
  prevSampleR := 0
  pulse1 := Pulse.reset
  pulse2 := Pulse.reset
  triangle := Triangle.reset
  noise := Noise.reset
  dmc := Dmc.reset

/-- Whether 47_mapper_cartridge.md gives the mapper type's kind (R446 to R450). -/
def specifiedType (mapperType : Nat) : Bool := decide (mapperType ∈ [0, 2, 3, 4, 7])

/-- The open mapper kind registered for a mapper type (R452), if there is one: the first in the list of those for the type (DESIGN CHOICE,
log entry 18), and none for a type whose kind the spec gives. -/
def openKind (cfg : Config) (mapperType : Nat) : Option MapperKind :=
  if specifiedType mapperType then none else cfg.mapperKinds.find? fun k => k.mapperType == mapperType

/-- The mapper registers after `mapper.reset()` (R451); an open kind's registers and scanline counter take its own reset values (R452). -/
def MapperRegs.reset (cfg : Config) (mapperType : Nat) : MapperRegs where
  command := 0
  prgAddressSelect := false
  chrAddressSelect := false
  prgAddressChanged := false
  irqCounter := ((openKind cfg mapperType).map (·.irqCounter)).getD 0
  irqLatchValue := ((openKind cfg mapperType).map (·.irqLatchValue)).getD 0
  irqEnable := ((openKind cfg mapperType).map (·.irqEnable)).getD false
  regs := ((openKind cfg mapperType).map (·.regs)).getD []

/-- No cartridge. -/
def Cart.absent : Cart where
  prgBanks := 0
  chrBanks := 0
  rom := []
  vrom := []
  mirroring := false
  battery := false
  trainer := false
  fourScreen := false
  mapperType := 0
  valid := false

end Sys2Proof.Machine
end

