-- ==== Sys2Proof/Machine/State.lean ====
section
/-!
DEFINITION. The state of the machine: every piece of state of 10_state.md, the session's `loaded` (48_scheduler_session.md rule R479),
the host calls not yet made and the host callbacks already made (rules R480 to R486), and the position of the scheduler inside a
frame. The configuration record of 00_scope.md rule R10 is carried beside them and never written by a step.
-/

namespace Sys2Proof.Machine

/-- What `CreateSnapshot()` returns (48_scheduler_session.md rule R483): every piece of mutable machine state and the cartridge. -/
structure Snapshot where
  cpu : Cpu
  halted : Bool
  mem : List Host.Cell
  irq : Irq
  haltCycles : Nat
  pads : Pads
  ppu : Ppu
  apu : Apu
  mapper : MapperRegs
  cart : Cart
  loaded : Bool
  deriving DecidableEq, Repr

/-- Why `LoadRom` fails (47_mapper_cartridge.md rule R434). -/
inductive LoadError where
  | invalidRom
  | unsupportedMapper (mapperType : Nat)
  | noProgramBanks
  deriving DecidableEq, Repr

/-- A call of the session interface (48_scheduler_session.md section 2). Controllers are 1 and 2, buttons 0 to 7 in the order of R40. -/
inductive HostCall where
  | frame
  /-- The file, and the saved battery RAM that the host hands back with it as this load's `BATTERY_RAM_INIT` (R443, R544), if any. -/
  | loadRom (bytes : List Byte) (image : Option (List Byte))
  | buttonDown (c b : Nat)
  | buttonUp (c b : Nat)
  | zapperMove (x y : Nat)
  | zapperFireDown
  | zapperFireUp
  | createSnapshot
  | restoreSnapshot (snap : Snapshot)
  deriving DecidableEq, Repr

/-- A host callback or a value returned to the host (R479, R483, R486). An audio sample is the numerator over 32768 of each side. -/
inductive HostEvent where
  | frame (buffer : PixTree Color)
  | audio (left right : Int)
  | halt (address : Word)
  | batteryWrite (address : Word) (value : Byte)
  | loadFailed (e : LoadError)
  | notLoaded
  | snapshot (snap : Snapshot)
  deriving DecidableEq, Repr

/-- Everything a bus access, a dot or an APU step can reach: all of the machine but the CPU's registers and the session.
`events` is newest first. -/
structure Bus where
  cfg : Config
  mem : List Host.Cell
  irq : Irq
  haltCycles : Nat
  pads : Pads
  ppu : Ppu
  apu : Apu
  mapper : MapperRegs
  cart : Cart
  events : List HostEvent
  deriving DecidableEq, Repr

/-- The machine. `stepCycles` is the cycle count of the scheduler step in progress (R65), `inFrame` says that a `Frame()` call is
running, `hostCalls` are the calls the host makes next, oldest first. -/
structure State extends Bus where
  cpu : Cpu
  halted : Bool
  loaded : Bool
  stepCycles : Nat
  inFrame : Bool
  hostCalls : List HostCall
  deriving DecidableEq, Repr

/-- The reasons for which the machine stops with a fault: none. An unfilled opcode is taken as a next state (60_exceptions.md rule
R500), and "Conditions that are not exceptions on this machine" are all the others (R501); the PPU, APU and mapper raise none
(R361, R417, R454). -/
inductive Fault where
  deriving DecidableEq, Repr

/-- The reasons for which the model gives no step. -/
inductive Refusal where
  /-- Raised by `exec` for an instruction that has no meaning in the model; safe. -/
  | notModelled (mnemonic : String)
  /-- Raised by `step` when the configuration record lies outside the bounds of `Config.ok` (93_implementation_defined.md P6: "A model
  must `refuse` `SAMPLE_RATE <= 0`"; 48_scheduler_session.md rule R477); safe. -/
  | badConfig
  deriving DecidableEq, Repr

/-- The machine after `ResetAll()` with a given configuration and no cartridge (70_reset_and_hazards.md rule R540). -/
def State.resetWith (cfg : Config) : State where
  cfg := cfg
  mem := []
  irq := Irq.reset cfg
  haltCycles := 0
  pads := Pads.reset
  ppu := Ppu.reset cfg
  apu := Apu.reset cfg
  mapper := MapperRegs.reset cfg 0
  cart := Cart.absent
  events := []
  cpu := Cpu.reset cfg
  halted := false
  loaded := false
  stepCycles := 0
  inFrame := false
  hostCalls := []

/-- The machine right after reset, with the default configuration of 00_scope.md rule R10 (log entry 2). -/
def State.reset : State := State.resetWith Config.default

end Sys2Proof.Machine
end

