-- ==== Sys2Proof/Machine/Flags.lean ====
section
/-!
DEFINITION. The status byte (10_state.md rules R29 to R31) and every flag computation: the adder, the subtracter, the comparison, the
bit test and the four one-bit shifts (41_alu_arith_logic.md, 42_shift_rmw.md rule R237), each as a function of bytes.
-/

namespace Sys2Proof.Machine

/-- `P()`, the assembled status byte `{N, V, U, B, D, I, Z, C}` with `U` = 1 (R28, R29). -/
def Flags.toByte (f : Flags) : Byte :=
  BitVec.ofBool f.n ++ BitVec.ofBool f.v ++ 1#1 ++ BitVec.ofBool f.b ++ BitVec.ofBool f.d ++ BitVec.ofBool f.i ++
    BitVec.ofBool f.z ++ BitVec.ofBool f.c

/-- `SetNZ(v)` (R31). -/
def Flags.setNZ (f : Flags) (v : Byte) : Flags := { f with n := v.msb, z := v == 0 }

/-- An 8-bit result with the carry and overflow it produces. -/
structure AluResult where
  value : Byte
  c : Bool
  v : Bool
  deriving DecidableEq, Repr

/-- The sum of ADC (R191): `t = A + M + C`, `V` when both operands have the sign that `t` has not. -/
def adder (a m : Byte) (c : Bool) : AluResult :=
  let t := a.toNat + m.toNat + c.toNat
  { value := BitVec.ofNat 8 t
    c := decide (255 < t)
    v := !(a ^^^ m).msb && (a ^^^ BitVec.ofNat 8 t).msb }

/-- The difference of SBC (R192): `t = A - M - (1 - C)`, with the carry as not-borrow. -/
def subtracter (a m : Byte) (c : Bool) : AluResult :=
  let t : Int := a.toNat - m.toNat - (1 - c.toNat)
  { value := BitVec.ofInt 8 t
    c := decide (0 ≤ t)
    v := (a ^^^ BitVec.ofInt 8 t).msb && (a ^^^ m).msb }

/-- The flags after a comparison of a register `r` with a byte (R196 to R198, R235): `C` is not-borrow, `V` is kept. -/
def Flags.compare (f : Flags) (r m : Byte) : Flags :=
  let t : Int := r.toNat - m.toNat
  ({ f with c := decide (0 ≤ t) }).setNZ (BitVec.ofInt 8 t)

/-- The flags after an addition or subtraction: `C`, `V`, `N` and `Z` from the result (R191, R192). -/
def Flags.ofAlu (f : Flags) (r : AluResult) : Flags := ({ f with c := r.c, v := r.v }).setNZ r.value

/-- The flags after BIT (R199): `N` and `V` from the memory byte, `Z` from the AND. -/
def Flags.bitTest (f : Flags) (a m : Byte) : Flags := { f with n := m.msb, v := m.getLsbD 6, z := (a &&& m) == 0 }

/-- A one-bit shift: the shifted byte and the new carry. -/
structure ShiftResult where
  value : Byte
  c : Bool
  deriving DecidableEq, Repr

/-- `Asl(v)` (R237). -/
def shiftAsl (_c : Bool) (v : Byte) : ShiftResult := { value := v <<< 1, c := v.msb }

/-- `Lsr(v)` (R237). -/
def shiftLsr (_c : Bool) (v : Byte) : ShiftResult := { value := v >>> 1, c := v.getLsbD 0 }

/-- `Rol(v)` (R237): the old carry enters bit 0. -/
def shiftRol (c : Bool) (v : Byte) : ShiftResult :=
  { value := (v <<< 1) ||| (BitVec.ofBool c).zeroExtend 8, c := v.msb }

/-- `Ror(v)` (R237): the old carry enters bit 7. -/
def shiftRor (c : Bool) (v : Byte) : ShiftResult :=
  { value := (v >>> 1) ||| ((BitVec.ofBool c).zeroExtend 8 <<< 7), c := v.getLsbD 0 }

/-- The flags after a shift: `C` from the bit shifted out, `N` and `Z` from the result (R221 to R224). -/
def Flags.ofShift (f : Flags) (r : ShiftResult) : Flags := ({ f with c := r.c }).setNZ r.value

/-- The result of ARR (R202): the AND rotated right through the old carry, with `C` and `V` from the AND's top two bits. -/
def rotateArr (a m : Byte) (c : Bool) : AluResult :=
  { value := (shiftRor c (a &&& m)).value
    c := (a &&& m).msb
    v := (a &&& m).msb ^^ (a &&& m).getLsbD 6 }

/-- The result of AXS (R203): `(A and X) - M`; the overflow test uses the old `X`. -/
def subtractAxs (a x m : Byte) : AluResult :=
  let t : Int := (a &&& x).toNat - m.toNat
  { value := BitVec.ofInt 8 t
    c := decide (0 ≤ t)
    v := (x ^^^ BitVec.ofInt 8 t).msb && (x ^^^ m).msb }

end Sys2Proof.Machine
end

