-- ==== Sys2Proof/Machine/Latch.lean ====
section
/-!
DEFINITION. The two things a device does to the CPU: a request to the interrupt latch (60_exceptions.md rule R505) and an addition to
the halt counter (10_state.md rule R36).
-/

namespace Sys2Proof.Machine

/-- `RequestIrq(kind)` (R505): "a new Normal request is dropped if one is already pending (coalesced), but Nmi/Reset always
overwrite". -/
def Irq.request (q : Irq) (kind : IrqKind) : Irq :=
  if q.pending && kind == .normal then q else { pending := true, kind := kind }

/-- `RequestIrq(kind)` on the bus. -/
def Bus.requestIrq (b : Bus) (kind : IrqKind) : Bus := { b with irq := b.irq.request kind }

/-- `HaltCycles(n)` (R36). -/
def Bus.addHalt (b : Bus) (n : Nat) : Bus := { b with haltCycles := b.haltCycles + n }

end Sys2Proof.Machine
end

