-- ==== Sys2Proof/Machine/Ppu.lean ====
section
/-!
DEFINITION. The picture processing unit (45_ppu.md): its address space, renderer, sprite-0 check, port operations, and the dot and
scanline state machine. Every function here maps a `Ppu`; what the PPU asks of the rest of the machine (NMI, frame callback, mapper
clock, mapper latch access) is returned to the caller.
-/

namespace Sys2Proof.Machine

/-- The number 1 of a set bit (R45's one-bit fields in address arithmetic). -/
def bit01 (b : Bool) : Nat := if b then 1 else 0

/-- `vram[a]`. -/
def Ppu.vramAt (p : Ppu) (a : Nat) : Byte := Cells.get zeroByte p.vram a

/-- `vram[a] <- v`; every address of the array has one entry (R42). -/
def Ppu.setVram (p : Ppu) (a : Nat) (v : Byte) : Ppu := { p with vram := Cells.set zeroByte p.vram (a % 0x8000) v }

/-- `spriteMem[i]`. -/
def Ppu.spriteAt (p : Ppu) (i : Nat) : Byte := Cells.get zeroByte p.spriteMem i

/-- `spriteMem[i] <- v`. -/
def Ppu.setSprite (p : Ppu) (i : Byte) (v : Byte) : Ppu := { p with spriteMem := Cells.set zeroByte p.spriteMem i.toNat v }

/-- `SetStatus(7, value)` (R311). -/
def Ppu.setVblank (p : Ppu) (value : Bool) : Ppu :=
  { p with ppuStatus := if value then p.ppuStatus ||| 0x80 else p.ppuStatus &&& 0x7F }

/-- `SetStatus(6, value)` (R311). -/
def Ppu.setSprite0Flag (p : Ppu) (value : Bool) : Ppu :=
  { p with ppuStatus := if value then p.ppuStatus ||| 0x40 else p.ppuStatus &&& 0xBF }

/-! The PPU address space (section 4). -/

/-- `Phys(mode, n)` of R340: the physical nametable behind logical nametable `n`. -/
def physNametable (mode : Option Mirroring) (n : Nat) : Nat :=
  match mode with
  | some .horizontal => if n < 2 then 0 else 2
  | some .vertical => n % 2
  | some .singleScreen0 => 0
  | some .singleScreen1 => 1
  | some .fourScreen => n
  | none => n

/-- `Mirror(a)` (R340), for a mode that is set. -/
def foldAddr (mode : Option Mirroring) (a : Nat) : Nat :=
  let b := a % 0x4000
  if b < 0x2000 then b
  else if 0x3F00 ≤ b then 0x3F00 + b % 0x20
  else
    let b := if 0x3000 ≤ b then b - 0x1000 else b
    0x2000 + 0x400 * physNametable mode ((b - 0x2000) / 0x400) + b % 0x400

/-- `vramMirrorTable[a]`: the function of R340 in each of the five modes, and the identity while no mode is set (10_state.md rule R53, R360
with decision D28). R340's row for the unset mode, read with the folding of its function, says otherwise outside the nametables; the model
follows R53 (DESIGN CHOICE, log entry 38). `a` is reduced to 15 bits before lookup (R340). -/
def mirrorAddr (mode : Option Mirroring) (a : Nat) : Nat := if mode = none then a % 0x8000 else foldAddr mode a

/-- `VramRead(a)` (R342). -/
def Ppu.vramRead (p : Ppu) (a : Nat) : Byte := p.vramAt (mirrorAddr p.currentMirroring a)

/-- `VramWrite(a, v)` (R343): the four transparent palette slots are written as pairs. -/
def Ppu.vramWrite (p : Ppu) (a : Nat) (v : Byte) : Ppu :=
  let m := mirrorAddr p.currentMirroring a
  if 0x3F00 ≤ m ∧ m ≤ 0x3F1F ∧ m % 4 = 0 then (p.setVram (0x3F00 + m % 0x10) v).setVram (0x3F10 + m % 0x10) v
  else p.setVram m v

/-- The 15-bit address form of a set of loopy counters, `{FV, V, H, VT, HT}` (R46). -/
def Loopy.pack (l : Loopy) : Nat := (l.fv ++ l.v ++ l.h ++ l.vt ++ l.ht).toNat

/-- `Unpack(a)` (R334): `FV[2]` becomes 0 and bits above 13 are dropped. -/
def Loopy.unpack (a : Nat) : Loopy where
  fv := BitVec.ofNat 3 (a / 0x1000 % 4)
  v := BitVec.ofNat 1 (a / 0x800)
  h := BitVec.ofNat 1 (a / 0x400)
  vt := BitVec.ofNat 5 (a / 0x20)
  ht := BitVec.ofNat 5 a

/-- `vramAddress` (R46). -/
def Ppu.vramAddress (p : Ppu) : Nat := p.cnt.pack

/-- The address step of R335 and R336: 1 or 32, then the unpacking of both sets. -/
def Ppu.stepAddress (p : Ppu) : Ppu :=
  { p with cnt := Loopy.unpack (p.vramAddress + if p.f_addrInc then 32 else 1)
           reg := { p.reg with fv := p.reg.fv &&& 3 } }

/-! Colours (R345, R346). -/

/-- A lane scaled by 0.75 and truncated, or kept. -/
def scaleLane (scaled : Bool) (lane : Nat) : Nat := if scaled then lane * 3 / 4 else lane

/-- `Emph(e, c)` (R346). -/
def emph (cfg : Config) (e : BitVec 3) (c : Nat) : Color :=
  let p := (cfg.palette.getD c 0).toNat
  let l2 := scaleLane (e.getLsbD 0 || e.getLsbD 1) (p / 0x10000 % 0x100)
  let l1 := scaleLane (e.getLsbD 1 || e.getLsbD 2) (p / 0x100 % 0x100)
  let l0 := scaleLane (e.getLsbD 0 || e.getLsbD 2) (p % 0x100)
  BitVec.ofNat 24 (l2 * 0x10000 + l1 * 0x100 + l0)

/-- The decoded colour of the palette byte at `a` (R345). -/
def Ppu.paletteColor (cfg : Config) (p : Ppu) (a : Nat) : Color :=
  if p.f_dispType then emph cfg 0 (p.vramAt a &&& 32).toNat else emph cfg p.f_color (p.vramAt a &&& 63).toNat

/-- `imgPalette[k]` (R54, R345). -/
def Ppu.imgPalette (cfg : Config) (p : Ppu) (k : Nat) : Color := p.paletteColor cfg (0x3F00 + k)

/-- `sprPalette[k]` (R54, R345). -/
def Ppu.sprPalette (cfg : Config) (p : Ppu) (k : Nat) : Color := p.paletteColor cfg (0x3F10 + k)

/-- `MonoBackground(c)` (R316). -/
def monoBackground (c : BitVec 3) : Color :=
  if c = 1 then 0x00FF00 else if c = 2 then 0xFF0000 else if c = 4 then 0x0000FF else 0x000000

/-! The renderer (section 5). -/

/-- `ptTile[t].pixel(x, y)` (10_state.md rule R56). -/
def Ppu.tilePixel (p : Ppu) (t x y : Nat) : Nat :=
  2 * bit01 ((p.vramAt (16 * t + 8 + y)).getLsbD (7 - x)) + bit01 ((p.vramAt (16 * t + y)).getLsbD (7 - x))

/-- The tile number and attribute of the tile under the counters (R350). -/
def Ppu.fetchTile (p : Ppu) : BitVec 9 × BitVec 4 :=
  let nt := 0x2000 + 0x400 * (2 * p.cnt.v.toNat + p.cnt.h.toNat)
  let idx := p.vramRead (nt + 32 * p.cnt.vt.toNat + p.cnt.ht.toNat)
  let ab := p.vramRead (nt + 0x3C0 + 8 * (p.cnt.vt.toNat / 4) + p.cnt.ht.toNat / 4)
  let shift := 2 * (2 * bit01 (p.cnt.vt.getLsbD 1) + bit01 (p.cnt.ht.getLsbD 1))
  (p.regS ++ idx, (ab >>> shift).extractLsb' 0 2 ++ 0#2)

/-- One opaque or transparent background pixel of tile `t` at column `sx` (R350). -/
def Ppu.bgPixel (cfg : Config) (live : Bool) (scan tile t att : Nat) (p : Ppu) (sx : Nat) : Ppu :=
  let x := 8 * tile + sx
  if p.regFH.toNat ≤ x ∧ x - p.regFH.toNat ≤ 255 then
    let col := p.tilePixel t sx p.cnt.fv.toNat
    if col = 0 then p
    else
      let i := 256 * scan + (x - p.regFH.toNat)
      let color := p.imgPalette cfg (col + att)
      let p := if live then { p with buffer := p.buffer.set pixDepth i color }
               else { p with bgbuffer := p.bgbuffer.set pixDepth i color }
      { p with pixrendered := p.pixrendered.set pixDepth i (p.pixrendered.get pixDepth i ||| 256) }
  else p

/-- One tile of a background scanline (R350): the tile is fetched or taken from the cache, drawn, and the horizontal counters advance. -/
def Ppu.bgTile (cfg : Config) (live : Bool) (scan : Nat) (p : Ppu) (tile : Nat) : Ppu :=
  let ta := if p.validTileData then (p.scantile.getD tile 0, p.attrib.getD tile 0) else p.fetchTile
  let p := if p.validTileData then p
           else { p with scantile := p.scantile.set tile ta.1, attrib := p.attrib.set tile ta.2 }
  let p := (List.range 8).foldl (Ppu.bgPixel cfg live scan tile ta.1.toNat ta.2.toNat) p
  { p with cnt := { p.cnt with ht := p.cnt.ht + 1, h := if p.cnt.ht = 31 then ~~~p.cnt.h else p.cnt.h } }

/-- The vertical counters at the end of a background scanline (R350). -/
def Ppu.advanceRow (p : Ppu) : Ppu :=
  if p.cnt.fv = 7 then
    { p with cnt := { p.cnt with fv := 0
                                 vt := if p.cnt.vt = 29 then 0 else p.cnt.vt + 1
                                 v := if p.cnt.vt = 29 then ~~~p.cnt.v else p.cnt.v }
             validTileData := false }
  else { p with cnt := { p.cnt with fv := p.cnt.fv + 1 } }

/-- `RenderBgScanline(target, scan)` (R350); `live` draws into `buffer`, otherwise into `bgbuffer`. -/
def Ppu.renderBgScanline (cfg : Config) (live : Bool) (scan : Nat) (p : Ppu) : Ppu :=
  let p := { p with cnt := { p.cnt with ht := p.reg.ht, h := p.reg.h } }
  let p := if scan < 240 ∧ p.cnt.fv.toNat ≤ scan then
             { (List.range 32).foldl (Ppu.bgTile cfg live scan) p with validTileData := true }
           else p
  p.advanceRow

/-- `SpritePixel(i, col, palAdd, n)` (R353): "lower numeric priority wins, ties keep earlier writer". -/
def Ppu.spritePixel (cfg : Config) (p : Ppu) (i col palAdd n : Nat) : Ppu :=
  let owner := p.pixrendered.get pixDepth i
  if col ≠ 0 ∧ n < (owner &&& 0xFF).toNat then
    { p with buffer := p.buffer.set pixDepth i (p.sprPalette cfg (col + palAdd))
             pixrendered := p.pixrendered.set pixDepth i ((owner &&& 0xF00) ||| BitVec.ofNat 12 n) }
  else p

/-- The rows of a sprite: 8 or 16 (R352). -/
def Ppu.spriteHeight (p : Ppu) : Nat := if p.f_spriteSize then 16 else 8

/-- `SpriteTile(T, sr)` (R354). -/
def Ppu.spriteTile (p : Ppu) (t : Byte) (sr : Nat) : Nat :=
  if p.f_spriteSize then 256 * bit01 (t.getLsbD 0) + (t &&& 0xFE).toNat + (if 8 ≤ sr then 1 else 0)
  else 256 * bit01 p.f_spPatternTable + t.toNat

/-- Row `r` of sprite `i` at framebuffer row `y` (R352). -/
def Ppu.spriteRow (cfg : Config) (p : Ppu) (i r y : Nat) : Ppu :=
  let at' := p.spriteAt (4 * i + 2)
  let x := (p.spriteAt (4 * i + 3)).toNat
  let sr := if at'.getLsbD 7 then p.spriteHeight - 1 - r else r
  let t := p.spriteTile (p.spriteAt (4 * i + 1)) sr
  (List.range 8).foldl (fun p c =>
    if x + c ≤ 255 then
      let sc := if at'.getLsbD 6 then 7 - c else c
      p.spritePixel cfg (256 * y + (x + c)) (p.tilePixel t sc (sr % 8)) (4 * (at'.extractLsb' 0 2).toNat) i
    else p) p

/-- Sprite `i` in the rows asked for, if it is on the asked side of the background (R352). -/
def Ppu.renderSprite (cfg : Config) (startScan scanCount : Int) (behind : Bool) (p : Ppu) (i : Nat) : Ppu :=
  if (p.spriteAt (4 * i + 2)).getLsbD 5 = behind then
    (List.range p.spriteHeight).foldl (fun p r =>
      let y := (p.spriteAt (4 * i)).toNat + 1 + r
      if startScan ≤ y ∧ (y : Int) < startScan + scanCount ∧ y < 240 then p.spriteRow cfg i r y else p) p
  else p

/-- `RenderSprites(startScan, scanCount, behind)` (R352): the 64 sprites in order. -/
def Ppu.renderSprites (cfg : Config) (startScan scanCount : Int) (behind : Bool) (p : Ppu) : Ppu :=
  (List.range 64).foldl (Ppu.renderSprite cfg startScan scanCount behind) p

/-- The background copy of R351: every pixel of the rows whose background is opaque is taken from `bgbuffer`. -/
def Ppu.commitBackground (startScan scanCount : Int) (p : Ppu) : Ppu :=
  let lo := (256 * startScan).toNat
  let hi := min (256 * (startScan + scanCount)).toNat 0xF000
  { p with buffer := (List.range' lo (hi - lo)).foldl (fun buf i =>
      if 0xFF < (p.pixrendered.get pixDepth i).toNat then buf.set pixDepth i (p.bgbuffer.get pixDepth i) else buf) p.buffer }

/-- `RenderFramePartially(startScan, scanCount)` (R351). -/
def Ppu.renderFramePartially (cfg : Config) (startScan scanCount : Int) (p : Ppu) : Ppu :=
  let p := if p.f_spVisibility then p.renderSprites cfg startScan scanCount true else p
  let p := if p.f_bgVisibility then p.commitBackground startScan scanCount else p
  let p := if p.f_spVisibility then p.renderSprites cfg startScan scanCount false else p
  { p with validTileData := false }

/-- `TriggerRendering()` (R325). -/
def Ppu.triggerRendering (cfg : Config) (p : Ppu) : Ppu :=
  if 21 ≤ p.scanline ∧ p.scanline ≤ 260 then
    { p.renderFramePartially cfg (p.lastRenderedScanline + 1) (p.scanline - 21 - p.lastRenderedScanline) with
      lastRenderedScanline := p.scanline - 21 }
  else p

/-- The first column, left to right, at which an opaque pixel of sprite 0 lies over an opaque background pixel of row `scan` (R355). -/
def Ppu.sprite0Column (p : Ppu) (scan r : Nat) : Option Nat :=
  let at' := p.spriteAt 2
  let x := (p.spriteAt 3).toNat
  let sr := if at'.getLsbD 7 then p.spriteHeight - 1 - r else r
  let t := p.spriteTile (p.spriteAt 1) sr
  ((List.range 8).find? fun c =>
    decide (x + c ≤ 255) && decide (p.tilePixel t (if at'.getLsbD 6 then 7 - c else c) (sr % 8) ≠ 0) &&
      decide (0xFF < (p.pixrendered.get pixDepth (256 * scan + (x + c))).toNat)).map (x + ·)

/-- `CheckSprite0(scan)` (R355): the rewritten record; a hit was found exactly when the record is not `none`. -/
def Ppu.checkSprite0 (scan : Int) (p : Ppu) : Ppu :=
  let r := scan - ((p.spriteAt 0).toNat + 1)
  { p with spr0Hit :=
      if 0 ≤ r ∧ r < p.spriteHeight ∧ 0 ≤ scan ∧ scan < 240 then
        (p.sprite0Column scan.toNat r.toNat).map fun x => (x, scan.toNat)
      else none }

/-! Frame start and end (R315 to R317). -/

/-- `StartFrame()` (R316). -/
def Ppu.startFrame (cfg : Config) (p : Ppu) : Ppu :=
  { p with buffer := .leaf (if p.f_dispType then monoBackground p.f_color else p.imgPalette cfg 0)
           pixrendered := .leaf 65 }

/-- A list of pixels set to 0. -/
def blankPixels (buf : PixTree Color) (is : List Nat) : PixTree Color := is.foldl (fun buf i => buf.set pixDepth i 0) buf

/-- The pixels of the 8 leftmost columns (R317). -/
def leftColumns : List Nat := (List.range 240).flatMap fun y => (List.range 8).map fun x => 256 * y + x

/-- The pixels of the 8 rightmost columns and of the 8 rows at the top and at the bottom (R317). -/
def otherBorder : List Nat :=
  (List.range 240).flatMap (fun y => (List.range 8).map fun x => 256 * y + 255 - x) ++
    (List.range 8).flatMap fun y => (List.range 256).flatMap fun x => [256 * y + x, 256 * (239 - y) + x]

/-- The clipping of `EndFrame()` (R317). -/
def Ppu.clipFrame (cfg : Config) (p : Ppu) : Ppu :=
  let buf := if cfg.clipToTvSize || !p.f_bgClipping || !p.f_spClipping then blankPixels p.buffer leftColumns else p.buffer
  { p with buffer := if cfg.clipToTvSize then blankPixels buf otherBorder else buf }

/-- What `StartVBlank()` (R315) does inside the PPU; the NMI request and the frame callback are the caller's. -/
def Ppu.startVBlank (cfg : Config) (p : Ppu) : Ppu :=
  let p := if p.lastRenderedScanline < 239 then
             p.renderFramePartially cfg (p.lastRenderedScanline + 1) (239 - p.lastRenderedScanline)
           else p
  { p.clipFrame cfg with lastRenderedScanline := -1 }

/-! The scanline and dot state machine (section 2). -/

/-- The end of scanline 19, the "dummy" scanline (R319). -/
def Ppu.endDummyScanline (cfg : Config) (p : Ppu) : Ppu :=
  { p with curX := if p.dummyCycleToggle then 1 else p.curX
           dummyCycleToggle :=
             if cfg.dotSkipAlternates || p.dummyCycleToggle then !p.dummyCycleToggle else p.dummyCycleToggle }

/-- The end of scanline 20 (R320), without the mapper's clock. -/
def Ppu.endPrerenderScanline (cfg : Config) (p : Ppu) : Ppu :=
  let p := { (p.setVblank false).setSprite0Flag false with hitSpr0 := false, spr0Hit := none }
  let p := if p.f_bgVisibility || p.f_spVisibility then
             let p := { p with cnt := p.reg }
             if p.f_bgVisibility then p.renderBgScanline cfg true 0 else p
           else p
  if p.f_bgVisibility && p.f_spVisibility then p.checkSprite0 0 else p

/-- The end of a visible scanline `s`, 21 to 260 (R321), without the mapper's clock. -/
def Ppu.endVisibleScanline (cfg : Config) (s : Nat) (p : Ppu) : Ppu :=
  if p.f_bgVisibility then
    let p := if p.scanlineAlreadyRendered then p
             else { p with cnt := { p.cnt with ht := p.reg.ht, h := p.reg.h } }.renderBgScanline cfg false (s - 20)
    let p := { p with scanlineAlreadyRendered := false }
    if !p.hitSpr0 && p.f_spVisibility then
      let p := p.checkSprite0 ((s : Int) - 20)
      if p.spr0Hit.isSome then { p with hitSpr0 := true } else p
    else p
  else p

/-- The end of scanline 261, "the final scanline" (R322). -/
def Ppu.endFinalScanline (cfg : Config) (p : Ppu) : Ppu :=
  { p.setVblank true with requestEndFrame := true, nmiCounter := cfg.nmiDelay }

/-- Whether the end of this scanline clocks the mapper's counter (R320, R321). -/
def Ppu.clocksMapper (p : Ppu) : Bool :=
  decide (20 ≤ p.scanline) && decide (p.scanline ≤ 260) && (p.f_bgVisibility || p.f_spVisibility)

/-- `EndScanline()` (R318), without the mapper's clock; after scanline 261 `scanline` is 0 (set to -1, then incremented). -/
def Ppu.endScanline (cfg : Config) (p : Ppu) : Ppu :=
  let s := p.scanline
  let p := if s = 19 then p.endDummyScanline cfg
           else if s = 20 then p.endPrerenderScanline cfg
           else if 21 ≤ s ∧ s ≤ 260 then p.endVisibleScanline cfg s
           else if s = 261 then p.endFinalScanline cfg
           else p
  { p with scanline := if s = 261 then 0 else s + 1 }

/-- What one dot asks of the rest of the machine. -/
structure DotResult where
  ppu : Ppu
  /-- `StartVBlank()` was performed: request an NMI, hand the finished frame to the host, report completion. -/
  frameDone : Bool
  /-- The picture as `EndFrame()` hands it to the host when the frame is done (R317). -/
  picture : PixTree Color
  /-- The mapper's `clockIrqCounter()` is called. -/
  clockMapper : Bool

/-- The sprite-0 part of a dot (R312, R313). -/
def Ppu.dotSprite0 (p : Ppu) : Ppu :=
  if p.f_spVisibility ∧ p.spr0Hit = some (p.curX, p.scanline - 21) ∧ 21 ≤ p.scanline then p.setSprite0Flag true else p

/-- The countdown part of a dot (R312, R314): is `StartVBlank()` due? -/
def Ppu.dotCountdown (cfg : Config) (p : Ppu) : Ppu × Bool :=
  if p.requestEndFrame then
    let p := { p with nmiCounter := p.nmiCounter - 1 }
    if p.nmiCounter = 0 then ({ p with requestEndFrame := false }.startVBlank cfg, true) else (p, false)
  else (p, false)

/-- `Dot()` (R312), without what it asks of the rest of the machine. -/
def Ppu.dot (cfg : Config) (p : Ppu) : DotResult :=
  let pd := p.dotSprite0.dotCountdown cfg
  let p : Ppu := { pd.1 with curX := pd.1.curX + 1 }
  if p.curX = 341 then
    { ppu := { p with curX := 0 }.endScanline cfg, frameDone := pd.2, picture := pd.1.buffer
      clockMapper := p.clocksMapper }
  else { ppu := p, frameDone := pd.2, picture := pd.1.buffer, clockMapper := false }

/-! Port operations (section 3). -/

/-- Write port 0 (R328). -/
def Ppu.writeControl1 (cfg : Config) (p : Ppu) (v : Byte) : Ppu :=
  let p := p.triggerRendering cfg
  { p with f_nmiOnVblank := v.getLsbD 7
           f_spriteSize := v.getLsbD 5
           f_bgPatternTable := v.getLsbD 4
           f_spPatternTable := v.getLsbD 3
           f_addrInc := v.getLsbD 2
           f_nTblAddress := v.extractLsb' 0 2
           reg := { p.reg with v := v.extractLsb' 1 1, h := v.extractLsb' 0 1 }
           regS := v.extractLsb' 4 1 }

/-- Write port 1 (R329). -/
def Ppu.writeControl2 (cfg : Config) (p : Ppu) (v : Byte) : Ppu :=
  { p.triggerRendering cfg with
    f_color := v.extractLsb' 5 3
    f_spVisibility := v.getLsbD 4
    f_bgVisibility := v.getLsbD 3
    f_spClipping := v.getLsbD 2
    f_bgClipping := v.getLsbD 1
    f_dispType := v.getLsbD 0 }

/-- Read port 2 (R330): the status as it was before the read. -/
def Ppu.readStatus (p : Ppu) : Byte × Ppu := (p.ppuStatus, { p with firstWrite := true }.setVblank false)

/-- Write port 3 (R331). -/
def Ppu.writeSpriteAddress (p : Ppu) (v : Byte) : Ppu := { p with sramAddress := v }

/-- Write port 4 (R332). -/
def Ppu.writeSpriteData (p : Ppu) (v : Byte) : Ppu :=
  let q := p.setSprite p.sramAddress v
  let q := if p.sramAddress.toNat < 4 then q.checkSprite0 ((q.scanline : Int) - 20) else q
  { q with sramAddress := q.sramAddress + 1 }

/-- Read port 4 (R332). -/
def Ppu.readSpriteData (p : Ppu) : Byte := p.spriteAt p.sramAddress.toNat

/-- Write port 5 (R333). -/
def Ppu.writeScroll (cfg : Config) (p : Ppu) (v : Byte) : Ppu :=
  let p := p.triggerRendering cfg
  let p := if p.firstWrite then { p with reg := { p.reg with ht := v.extractLsb' 3 5 }, regFH := v.extractLsb' 0 3 }
           else { p with reg := { p.reg with fv := v.extractLsb' 0 3, vt := v.extractLsb' 3 5 } }
  { p with firstWrite := !p.firstWrite }

/-- Write port 6 (R334), without the mapper's latch access. -/
def Ppu.writeAddress (cfg : Config) (p : Ppu) (v : Byte) : Ppu :=
  let p := if p.firstWrite then
             { p with reg := { p.reg with fv := (v.extractLsb' 4 2).zeroExtend 3
                                          v := v.extractLsb' 3 1
                                          h := v.extractLsb' 2 1
                                          vt := v.extractLsb' 0 2 ++ p.reg.vt.extractLsb' 0 3 } }
           else
             let p := p.triggerRendering cfg
             let reg := { p.reg with vt := p.reg.vt.extractLsb' 3 2 ++ v.extractLsb' 5 3, ht := v.extractLsb' 0 5 }
             { p with reg := reg, cnt := reg }.checkSprite0 ((p.scanline : Int) - 20)
  { p with firstWrite := !p.firstWrite }

/-- Read port 7 (R335) before the mapper's latch access and the address step: reads below the palette are buffered. -/
def Ppu.readDataByte (p : Ppu) : Byte × Ppu :=
  let a := p.vramAddress
  if a ≤ 0x3EFF then
    (p.vramBufferedReadValue, { p with vramBufferedReadValue := if a < 0x2000 then p.vramAt a else p.vramRead a })
  else (p.vramRead a, p)

/-- Write port 7 (R336) before the latch access and the address step: the byte goes to the pattern window (R344) or through the mirror table (R343). -/
def Ppu.writeDataByte (cfg : Config) (p : Ppu) (v : Byte) : Ppu :=
  let p := p.triggerRendering cfg
  if 0x2000 ≤ p.vramAddress then p.vramWrite p.vramAddress v else p.setVram p.vramAddress v

/-- The sprite part of DMA (R338): 256 bytes, the destination starting at `sramAddress` and wrapping. -/
def Ppu.spriteDma (p : Ppu) (bytes : List Byte) : Ppu :=
  let q := (bytes.zipIdx).foldl (fun p e => p.setSprite (p.sramAddress + BitVec.ofNat 8 e.2) e.1) p
  q.checkSprite0 ((q.scanline : Int) - 20)

/-- `SetMirroring(mode)` (R341). -/
def Ppu.setMirroring (cfg : Config) (p : Ppu) (mode : Mirroring) : Ppu :=
  if p.currentMirroring = some mode then p
  else { p.triggerRendering cfg with currentMirroring := some mode }

end Sys2Proof.Machine
end

