-- ==== Sys2Proof/Machine/Apu.lean ====
section
/-!
DEFINITION. The audio processing unit (46_apu.md): its tables, register writes, channel clocks, frame sequencer and mixer. Every function
here maps the APU or one channel; the DMC's byte fetch, which goes through the CPU's bus (R404), stands in Machine/Sound.lean.
-/

namespace Sys2Proof.Machine

/-! Tables (R411 to R416). -/

/-- `LengthLookup[0..31]` (R412). -/
def lengthLookup : List Nat :=
  [0x0A, 0xFE, 0x14, 0x02, 0x28, 0x04, 0x50, 0x06, 0xA0, 0x08, 0x3C, 0x0A, 0x0E, 0x0C, 0x1A, 0x0E,
   0x0C, 0x10, 0x18, 0x12, 0x30, 0x14, 0x60, 0x16, 0xC0, 0x18, 0x48, 0x1A, 0x10, 0x1C, 0x20, 0x1E]

/-- The length-counter load value of a written byte, index bits 7:3. -/
def lengthLoad (v : Byte) : Nat := lengthLookup.getD (v >>> 3).toNat 0

/-- `DutyLookup[0..31]` (R411). -/
def dutyLookup : List Nat :=
  [0, 1, 0, 0, 0, 0, 0, 0, 0, 1, 1, 0, 0, 0, 0, 0, 0, 1, 1, 1, 1, 0, 0, 0, 1, 0, 0, 1, 1, 1, 1, 1]

/-- `DmcFrequency[0..15]` (R413). -/
def dmcFrequencyTable : List Nat :=
  [0xD60, 0xBE0, 0xAA0, 0xA00, 0x8F0, 0x7F0, 0x710, 0x6B0, 0x5F0, 0x500, 0x470, 0x400, 0x350, 0x2A0, 0x240, 0x1B0]

/-- `NoiseWavelength[0..15]` (R414). -/
def noiseWavelength : List Nat :=
  [0x004, 0x008, 0x010, 0x020, 0x040, 0x060, 0x080, 0x0A0, 0x0CA, 0x0FE, 0x17C, 0x1FC, 0x2FA, 0x3F8, 0x7F2, 0xFE4]

/-- `square_table[i]` (R415), the closed formula as one exact fraction (log entry 12). -/
def squareTable (i : Nat) : Nat := 9552 * 492055 * i / (1000 * (130048 + 100 * i))

/-- `tnd_table[i]` (R416), the closed formula as one exact fraction (log entry 12). -/
def tndTable (i : Nat) : Nat := 16367 * 492055 * i / (1000 * (389264 + 100 * i))

/-- `dcValue` (R416): half of the sum of the two table maxima, 13258 and 36724. -/
def dcValue : Int := ((squareTable 511 + tndTable 3263) / 2 : Nat)

/-! Constants of the configuration (R371). -/

/-- `frameTime`, in half CPU cycles. -/
def frameTime (cfg : Config) : Nat := cfg.frameTickBase * cfg.preferredFrameRate.num / (cfg.preferredFrameRate.den * 60)

/-- `sampleTimerMax`, CPU cycles per output sample in 10-bit fixed point. -/
def sampleTimerMax (cfg : Config) : Nat :=
  1024 * cfg.cpuClockHz.num * cfg.preferredFrameRate.num * cfg.sampleRate.den /
    (cfg.cpuClockHz.den * cfg.preferredFrameRate.den * cfg.sampleRate.num * 60)

/-- `stereoPosL[ch]`. -/
def stereoPosL (cfg : Config) (ch : Nat) : Nat := cfg.panning.getD ch 0 * cfg.masterVolume / 256

/-- `stereoPosR[ch]`. -/
def stereoPosR (cfg : Config) (ch : Nat) : Int := (cfg.masterVolume : Int) - stereoPosL cfg ch

/-! Outputs of the channels (R405 to R407). -/

/-- Pulse `UpdateSampleValue(p)` (R405). -/
def Pulse.updateSample (p : Pulse) : Pulse :=
  { p with sampleValue :=
      if p.isEnabled && decide (0 < p.lengthCounter) && decide (7 < p.progTimerMax) then
        if !p.sweepMode && decide (4095 < p.progTimerMax + p.progTimerMax / 2 ^ p.sweepShiftAmount) then 0
        else p.env.masterVolume * dutyLookup.getD (8 * p.dutyMode.toNat + p.squareCounter.toNat) 0
      else 0 }

/-- Triangle `UpdateSampleCondition()` (R406). -/
def Triangle.updateCondition (t : Triangle) : Triangle :=
  { t with sampleCondition := t.isEnabled && decide (7 < t.progTimerMax) && decide (0 < t.linearCounter) &&
      decide (0 < t.lengthCounter) }

/-- Noise `UpdateSampleValue()` (R407). -/
def Noise.updateSample (n : Noise) : Noise :=
  { n with sampleValue :=
      if n.isEnabled && decide (0 < n.lengthCounter) then (if n.randomBit then n.env.masterVolume else 0) else 0 }

/-- `masterVolume <- envDecayDisable ? envDecayRate : envVolume`. -/
def Envelope.selectVolume (e : Envelope) : Envelope :=
  { e with masterVolume := if e.envDecayDisable then e.envDecayRate else e.envVolume }

/-- The envelope fields of a control byte (R381, R383). -/
def Envelope.writeControl (e : Envelope) (v : Byte) : Envelope :=
  { e with envDecayLoopEnable := v.getLsbD 5
           envDecayDisable := v.getLsbD 4
           envDecayRate := (v.extractLsb' 0 4).toNat }.selectVolume

/-! Register writes (R377 to R385). -/

/-- A timer's low byte written: `progTimerMax[7:0] <- v`. -/
def timerLow (old : Nat) (v : Byte) : Nat := old / 0x100 * 0x100 + v.toNat

/-- A timer's high bits written: `progTimerMax[10:8] <- v[2:0]` (bit 11, which only the sweep unit sets, is kept; log entry 21). -/
def timerHigh (old : Nat) (v : Byte) : Nat := old / 0x800 * 0x800 + (v.extractLsb' 0 3).toNat * 0x100 + old % 0x100

/-- Pulse register `base + r` (R381). -/
def Pulse.writeReg (p : Pulse) (r : Nat) (v : Byte) : Pulse :=
  if r = 0 then
    { p with dutyMode := v.extractLsb' 6 2
             lengthCounterEnable := !v.getLsbD 5
             env := p.env.writeControl v }.updateSample
  else if r = 1 then
    { p with sweepActive := v.getLsbD 7
             sweepCounterMax := (v.extractLsb' 4 3).toNat
             sweepMode := v.getLsbD 3
             sweepShiftAmount := (v.extractLsb' 0 3).toNat
             updateSweepPeriod := true }
  else if r = 2 then { p with progTimerMax := timerLow p.progTimerMax v }
  else
    { p with progTimerMax := timerHigh p.progTimerMax v
             lengthCounter := if p.isEnabled then lengthLoad v else p.lengthCounter
             env := { p.env with envReset := true } }

/-- Triangle register 0x4008 + r (R382). -/
def Triangle.writeReg (t : Triangle) (r : Nat) (v : Byte) : Triangle :=
  (if r = 0 then
    { t with lcControl := v.getLsbD 7
             linearCounterLoadValue := (v.extractLsb' 0 7).toNat
             lengthCounterEnable := !v.getLsbD 7 }
  else if r = 1 then t
  else if r = 2 then { t with progTimerMax := timerLow t.progTimerMax v }
  else { t with progTimerMax := timerHigh t.progTimerMax v, lengthCounter := lengthLoad v, lcHalt := true }).updateCondition

/-- Noise register 0x400C + r (R383). -/
def Noise.writeReg (n : Noise) (r : Nat) (v : Byte) : Noise :=
  if r = 0 then { n with lengthCounterEnable := !v.getLsbD 5, env := n.env.writeControl v }
  else if r = 1 then n
  else if r = 2 then
    { n with progTimerMax := noiseWavelength.getD (v.extractLsb' 0 4).toNat 0, randomMode := v.getLsbD 7 }
  else { n with lengthCounter := lengthLoad v, env := { n.env with envReset := true } }

/-- The play mode of a byte written to 0x4010 (R384). -/
def playModeOf (v : Byte) : PlayMode := if v.getLsbD 6 then .loop else if v.getLsbD 7 then .irq else .normal

/-- `2*deltaCounter + dacLsb`. -/
def Dmc.level (d : Dmc) : Nat := 2 * d.deltaCounter + d.dacLsb.toNat

/-- DMC register 0x4010 + r (R384). -/
def Dmc.writeReg (d : Dmc) (r : Nat) (v : Byte) : Dmc :=
  if r = 0 then
    { d with playMode := playModeOf v
             irqGenerated := if v.getLsbD 7 then d.irqGenerated else false
             dmaFrequency := dmcFrequencyTable.getD (v.extractLsb' 0 4).toNat 0 }
  else if r = 1 then
    let d := { d with deltaCounter := (v.extractLsb' 1 6).toNat, dacLsb := v.getLsbD 0 }
    { d with sample := d.level }
  else if r = 2 then
    let a : Word := 0xC000 ||| (v.zeroExtend 16 <<< 6)
    { d with playStartAddress := a, playAddress := a }
  else { d with playLength := 16 * v.toNat + 1, playLengthCounter := 16 * v.toNat + 1 }

/-- `SetEnabled` of a pulse channel (R385). -/
def Pulse.setEnabled (p : Pulse) (e : Bool) : Pulse :=
  { p with isEnabled := e, lengthCounter := if e then p.lengthCounter else 0 }.updateSample

/-- `SetEnabled` of the triangle channel (R385). -/
def Triangle.setEnabled (t : Triangle) (e : Bool) : Triangle :=
  { t with isEnabled := e, lengthCounter := if e then t.lengthCounter else 0 }.updateCondition

/-- `SetEnabled` of the noise channel (R385). -/
def Noise.setEnabled (n : Noise) (e : Bool) : Noise :=
  { n with isEnabled := e, lengthCounter := if e then n.lengthCounter else 0 }.updateSample

/-- `SetEnabled` of the DMC channel (R385). -/
def Dmc.setEnabled (d : Dmc) (e : Bool) : Dmc :=
  { d with playLengthCounter := if !d.isEnabled && e then d.playLength else d.playLengthCounter, isEnabled := e }

/-- The DMC part of a write to 0x4015 (R377). -/
def Dmc.writeEnable (d : Dmc) (e : Bool) : Dmc :=
  let d := d.setEnabled e
  let d := if e then { d with playAddress := d.playStartAddress, playLengthCounter := d.playLength }
           else { d with playLengthCounter := 0 }
  { d with irqGenerated := false }

/-- Write 0x4015 (R377). -/
def Apu.writeEnable (a : Apu) (v : Byte) : Apu :=
  { a with pulse1 := a.pulse1.setEnabled (v.getLsbD 0)
           pulse2 := a.pulse2.setEnabled (v.getLsbD 1)
           triangle := a.triangle.setEnabled (v.getLsbD 2)
           noise := a.noise.setEnabled (v.getLsbD 3)
           dmc := a.dmc.writeEnable (v.getLsbD 4)
           initingHardware := if v ≠ 0 ∧ 0 < a.initCounter then true else a.initingHardware }

/-- The status byte that a read of 0x4015 returns (R378). -/
def Apu.status (a : Apu) : Byte :=
  BitVec.ofBool a.dmc.irqGenerated ++
    BitVec.ofBool (a.frameIrqActive && a.frameIrqEnabled) ++ 0#1 ++
    BitVec.ofBool (a.dmc.isEnabled && decide (0 < a.dmc.playLengthCounter)) ++
    BitVec.ofBool (a.noise.isEnabled && decide (0 < a.noise.lengthCounter)) ++
    BitVec.ofBool (a.triangle.isEnabled && decide (0 < a.triangle.lengthCounter)) ++
    BitVec.ofBool (a.pulse2.isEnabled && decide (0 < a.pulse2.lengthCounter)) ++
    BitVec.ofBool (a.pulse1.isEnabled && decide (0 < a.pulse1.lengthCounter))

/-- Read 0x4015 (R378): the status, and both interrupt flags cleared. -/
def Apu.readStatus (a : Apu) : Byte × Apu :=
  (a.status, { a with frameIrqActive := false, dmc := { a.dmc with irqGenerated := false } })

/-! Clocks of the frame sequencer (R399 to R403). -/

/-- `ClockLength` of a pulse channel (R400). -/
def Pulse.clockLength (p : Pulse) : Pulse :=
  if p.lengthCounterEnable && decide (0 < p.lengthCounter) then
    let p := { p with lengthCounter := p.lengthCounter - 1 }
    if p.lengthCounter = 0 then p.updateSample else p
  else p

/-- `ClockLength` of the triangle channel (R400). -/
def Triangle.clockLength (t : Triangle) : Triangle :=
  if t.lengthCounterEnable && decide (0 < t.lengthCounter) then
    let t := { t with lengthCounter := t.lengthCounter - 1 }
    if t.lengthCounter = 0 then t.updateCondition else t
  else t

/-- `ClockLength` of the noise channel (R400). -/
def Noise.clockLength (n : Noise) : Noise :=
  if n.lengthCounterEnable && decide (0 < n.lengthCounter) then
    let n := { n with lengthCounter := n.lengthCounter - 1 }
    if n.lengthCounter = 0 then n.updateSample else n
  else n

/-- `ClockEnvelope` (R401), without the update of the channel's output. -/
def Envelope.clock (e : Envelope) : Envelope :=
  (if e.envReset then { e with envReset := false, envDecayCounter := e.envDecayRate + 1, envVolume := 0x0F }
  else if e.envDecayCounter - 1 ≤ 0 then
    { e with envDecayCounter := e.envDecayRate + 1
             envVolume := if 0 < e.envVolume then e.envVolume - 1 else if e.envDecayLoopEnable then 0x0F else 0 }
  else { e with envDecayCounter := e.envDecayCounter - 1 }).selectVolume

/-- `ClockEnvelope` of a pulse channel (R401). -/
def Pulse.clockEnvelope (p : Pulse) : Pulse := { p with env := p.env.clock }.updateSample

/-- `ClockEnvelope` of the noise channel (R401). -/
def Noise.clockEnvelope (n : Noise) : Noise := { n with env := n.env.clock }.updateSample

/-- The sweep unit's change of the period (R402); `first` says the channel is pulse 1. -/
def Pulse.sweepPeriod (first : Bool) (p : Pulse) : Pulse :=
  let d := p.progTimerMax / 2 ^ p.sweepShiftAmount
  if p.sweepMode then
    { p with sweepCarry := false, progTimerMax := p.progTimerMax + bit01 first - d }
  else if 4095 < p.progTimerMax + d then { p with progTimerMax := 4095, sweepCarry := true }
  else { p with progTimerMax := p.progTimerMax + d, sweepCarry := false }

/-- `ClockSweep(p)` (R402). -/
def Pulse.clockSweep (first : Bool) (p : Pulse) : Pulse :=
  let p := { p with sweepCounter := p.sweepCounter - 1 }
  let p := if p.sweepCounter ≤ 0 then
             let p := { p with sweepCounter := p.sweepCounterMax + 1 }
             if p.sweepActive && decide (0 < p.sweepShiftAmount) && decide (7 < p.progTimerMax) then p.sweepPeriod first else p
           else p
  if p.updateSweepPeriod then { p with updateSweepPeriod := false, sweepCounter := p.sweepCounterMax + 1 } else p

/-- `ClockLinear()` (R403). -/
def Triangle.clockLinear (t : Triangle) : Triangle :=
  let t := if t.lcHalt then { t with linearCounter := t.linearCounterLoadValue }.updateCondition
           else if 0 < t.linearCounter then { t with linearCounter := t.linearCounter - 1 }.updateCondition
           else t
  { t with lcHalt := if t.lcControl then t.lcHalt else false }

/-- The length and sweep clocks of sequencer steps 1 and 3 (R399). -/
def Apu.clockLengthAndSweep (a : Apu) : Apu :=
  { a with triangle := a.triangle.clockLength
           pulse1 := a.pulse1.clockLength.clockSweep true
           pulse2 := a.pulse2.clockLength.clockSweep false
           noise := a.noise.clockLength }

/-- The envelope and linear-counter clocks of sequencer steps 0 to 3 (R399). -/
def Apu.clockEnvelopes (a : Apu) : Apu :=
  { a with pulse1 := a.pulse1.clockEnvelope
           pulse2 := a.pulse2.clockEnvelope
           noise := a.noise.clockEnvelope
           triangle := a.triangle.clockLinear }

/-- `FrameCounterTick()` (R399). -/
def Apu.frameCounterTick (a : Apu) : Apu :=
  let k := if a.frameIrqCounterMax ≤ a.derivedFrameCounter + 1 then 0 else a.derivedFrameCounter + 1
  let a := { a with derivedFrameCounter := k }
  let a := if k = 1 ∨ k = 3 then a.clockLengthAndSweep else a
  let a := if k < 4 then a.clockEnvelopes else a
  if k = 3 ∧ a.countSequence = false then { a with frameIrqActive := true } else a

/-- Write 0x4017 (R380). -/
def Apu.writeSequencer (a : Apu) (v : Byte) : Apu :=
  let a := { a with countSequence := v.getLsbD 7
                    masterFrameCounter := 0
                    frameIrqActive := false
                    frameIrqEnabled := !v.getLsbD 6 }
  if v.getLsbD 7 then { a with frameIrqCounterMax := 5, derivedFrameCounter := 0 }.frameCounterTick
  else { a with frameIrqCounterMax := 4, derivedFrameCounter := 4 }

/-- `ApuWrite(addr, v)` (R376); an address the table does not list is ignored. -/
def Apu.write (a : Apu) (addr : Nat) (v : Byte) : Apu :=
  if 0x4000 ≤ addr ∧ addr ≤ 0x4003 then { a with pulse1 := a.pulse1.writeReg (addr - 0x4000) v }
  else if 0x4004 ≤ addr ∧ addr ≤ 0x4007 then { a with pulse2 := a.pulse2.writeReg (addr - 0x4004) v }
  else if 0x4008 ≤ addr ∧ addr ≤ 0x400B then { a with triangle := a.triangle.writeReg (addr - 0x4008) v }
  else if 0x400C ≤ addr ∧ addr ≤ 0x400F then { a with noise := a.noise.writeReg (addr - 0x400C) v }
  else if 0x4010 ≤ addr ∧ addr ≤ 0x4013 then { a with dmc := a.dmc.writeReg (addr - 0x4010) v }
  else if addr = 0x4015 then a.writeEnable v
  else if addr = 0x4017 then a.writeSequencer v
  else a

/-! The steps of `ApuStep` inside the APU (R391 to R398, R408, R409). -/

/-- `InitWindow(nCycles)` (R391): the APU after it, and whether the window swallowed the step. -/
def Apu.initWindow (a : Apu) (n : Nat) : Apu × Bool :=
  if 0 < a.initCounter ∧ a.initingHardware = true then
    ({ a with initCounter := a.initCounter - n, initingHardware := decide (0 < a.initCounter - n) }, true)
  else (a, false)

/-- `Clamp(nCycles)` (R392): the cycles to process now, the rest carried in `extraCycles`. -/
def Apu.clamp (cfg : Config) (a : Apu) (nCycles : Nat) : Nat × Apu :=
  let n := nCycles + a.extraCycles
  let room : Int := (sampleTimerMax cfg : Int) - a.sampleTimer
  if room < (n * 1024 : Nat) then
    let extra := (((n * 1024 : Nat) - room) / 1024).toNat
    (n - extra, { a with extraCycles := extra })
  else (n, { a with extraCycles := 0 })

/-- The loop of `ClockTriangleTimer` (R394), with as many turns as it can take. -/
def Triangle.timerLoop : Nat → Triangle → Triangle
  | 0, t => t
  | fuel + 1, t =>
    if t.progTimerCount ≤ 0 then
      let t := { t with progTimerCount := t.progTimerCount + t.progTimerMax + 1 }
      let t := if t.isEnabled && decide (0 < t.linearCounter) && decide (0 < t.lengthCounter) then
                 let k := t.triangleCounter + 1
                 { t with triangleCounter := k
                          sampleValue := 16 * (if 0x10 ≤ k.toNat then 0x0F - k.toNat % 16 else k.toNat % 16) }
               else t
      Triangle.timerLoop fuel t
    else t

/-- `ClockTriangleTimer(n)` (R394). -/
def Triangle.clockTimer (t : Triangle) (n : Nat) : Triangle :=
  if 0 < t.progTimerMax then
    let t := { t with progTimerCount := t.progTimerCount - n }
    Triangle.timerLoop (1 - t.progTimerCount).toNat t
  else t

/-- `ClockPulseTimer(p, n)` (R395): at most one phase step per call. -/
def Pulse.clockTimer (p : Pulse) (n : Nat) : Pulse :=
  if p.progTimerCount - n ≤ 0 then
    { p with progTimerCount := p.progTimerCount - n + 2 * (p.progTimerMax + 1)
             squareCounter := p.squareCounter + 1 }.updateSample
  else { p with progTimerCount := p.progTimerCount - n }

/-- One shift of the noise register (R396). -/
def Noise.shift (n : Noise) : Noise :=
  let fb := n.shiftReg.getLsbD 14 ^^ (if n.randomMode then n.shiftReg.getLsbD 8 else n.shiftReg.getLsbD 13)
  let n := { n with shiftReg := (n.shiftReg <<< 1) ||| (BitVec.ofBool fb).zeroExtend 15, randomBit := !fb }
  { n with sampleValue :=
      if fb then 0 else if n.isEnabled && decide (0 < n.lengthCounter) then n.env.masterVolume else 0 }

/-- One cycle of the noise channel when its timer may run out (R396). -/
def Noise.clockOne (n : Noise) : Noise :=
  let n := { n with progTimerCount := n.progTimerCount - 1 }
  let n := if n.progTimerCount ≤ 0 ∧ 0 < n.progTimerMax then
             { n.shift with progTimerCount := n.progTimerCount + n.progTimerMax }
           else n
  { n with accValue := n.accValue + n.sampleValue, accCount := n.accCount + 1 }

/-- `n` cycles of `Noise.clockOne`. -/
def Noise.clockMany : Nat → Noise → Noise
  | 0, c => c
  | k + 1, c => Noise.clockMany k c.clockOne

/-- `ClockNoiseTimer(n)` (R396). -/
def Noise.clockTimer (c : Noise) (n : Nat) : Noise :=
  if 0 < c.progTimerCount - n then
    { c with progTimerCount := c.progTimerCount - n
             accCount := c.accCount + n
             accValue := c.accValue + n * c.sampleValue }
  else Noise.clockMany n c

/-- Steps (d), (e) and (f) of `ApuStep`: the timers of the four tone channels (R394 to R396). -/
def Apu.clockTimers (a : Apu) (n : Nat) : Apu :=
  { a with triangle := a.triangle.clockTimer n
           pulse1 := a.pulse1.clockTimer n
           pulse2 := a.pulse2.clockTimer n
           noise := a.noise.clockTimer n }

/-- `AdvanceFrameSequencer(n)` (R398). -/
def Apu.advanceSequencer (cfg : Config) (a : Apu) (n : Nat) : Apu :=
  let a := { a with masterFrameCounter := a.masterFrameCounter + 2 * n }
  if frameTime cfg ≤ a.masterFrameCounter then
    { a with masterFrameCounter := a.masterFrameCounter - frameTime cfg }.frameCounterTick
  else a

/-- The triangle's interpolated level (R408). -/
def Triangle.level (t : Triangle) : Int :=
  let v := min 16 (16 * t.progTimerCount / (t.progTimerMax + 1))
  (if 16 ≤ t.triangleCounter.toNat then 16 - v else v) + t.sampleValue

/-- `Accumulate(n)` (R408). -/
def Apu.accumulate (a : Apu) (n : Nat) : Apu :=
  let a := { a with triValue := if a.triangle.sampleCondition then a.triangle.level else a.triValue }
  { a with smpTriangle := a.smpTriangle + n * a.triValue
           smpDmc := a.smpDmc + n * a.dmc.sample
           smpSquare1 := a.smpSquare1 + n * a.pulse1.sampleValue
           smpSquare2 := a.smpSquare2 + n * a.pulse2.sampleValue
           accCount := a.accCount + n }

/-! The mixer (R410). -/

/-- Part (1) of `Sample()`: the averages of the channels, or their instantaneous values. -/
def Apu.averages (a : Apu) : Apu :=
  let a := if 0 < a.accCount then
             { a with smpSquare1 := 16 * a.smpSquare1 / a.accCount
                      smpSquare2 := 16 * a.smpSquare2 / a.accCount
                      smpTriangle := a.smpTriangle / a.accCount
                      smpDmc := 16 * a.smpDmc / a.accCount
                      accCount := 0 }
           else
             { a with smpSquare1 := 16 * a.pulse1.sampleValue
                      smpSquare2 := 16 * a.pulse2.sampleValue
                      smpTriangle := a.triangle.sampleValue
                      smpDmc := 16 * a.dmc.sample }
  a

/-- `smpNoise` of part (1): the noise channel's own average. -/
def Noise.average (n : Noise) : Nat := 16 * n.accValue / n.accCount

/-- A table index: clamped to the last entry, "out-of-range table indices are clamped" (R410, R417; log entry 14 for a negative one). -/
def clampIndex (i : Int) (last : Nat) : Nat := min i.toNat last

/-- Parts (2) and (3): the level of one side, from the averages and the five stereo positions of that side. -/
def Apu.mixSide (a : Apu) (smpNoise : Nat) (w : Nat → Int) : Int :=
  let sq := (a.smpSquare1 * w 0 + a.smpSquare2 * w 1) / 256
  let tnd := (3 * a.smpTriangle * w 2 + 2 * smpNoise * w 3 + a.smpDmc * w 4) / 256
  squareTable (clampIndex sq 511) + tndTable (clampIndex tnd 3263) - dcValue

/-- `Sample()` (R410): the APU after it, and the sample pair as numerators over 32768. -/
def Apu.sample (cfg : Config) (a : Apu) : Apu × (Int × Int) :=
  let a := a.averages
  let smpNoise := a.noise.average
  let vL := a.mixSide smpNoise (fun ch => stereoPosL cfg ch)
  let vR := a.mixSide smpNoise (stereoPosR cfg)
  let outL := a.smpAccumL + (vL - a.prevSampleL) - a.smpAccumL / 1024
  let outR := a.smpAccumR + (vR - a.prevSampleR) - a.smpAccumR / 1024
  ({ a with prevSampleL := vL
            prevSampleR := vR
            smpAccumL := outL
            smpAccumR := outR
            smpSquare1 := 0
            smpSquare2 := 0
            smpTriangle := 0
            smpDmc := 0
            noise := { a.noise with accValue := smpNoise / 16, accCount := 1 } }, (outL, outR))

/-- `AdvanceSampleTimer(n)` (R409): the APU after it, and the sample pair if one was emitted. -/
def Apu.advanceSampleTimer (cfg : Config) (a : Apu) (n : Nat) : Apu × Option (Int × Int) :=
  let a := { a with sampleTimer := a.sampleTimer + 1024 * n }
  if sampleTimerMax cfg ≤ a.sampleTimer then
    let r := a.sample cfg
    ({ r.1 with sampleTimer := r.1.sampleTimer - sampleTimerMax cfg }, some r.2)
  else (a, none)

end Sys2Proof.Machine
end

