-- ==== Sys2Proof/Machine/Mapper.lean ====
section
/-!
DEFINITION. The mapper (47_mapper_cartridge.md): the bank-copy primitives, the write protocols of types 0, 2, 3, 4 and 7, the
interpreter of an open kind (R452), the scanline counter, and what `loadROM()` copies at power-on.
-/

namespace Sys2Proof.Machine

/-! Program-bank primitives (R438). A copy that would leave the program window is not made (log entry 17). -/

/-- A slice copied into the program window, straight into `mem`. -/
def Bus.copyProgram (b : Bus) (address : Nat) (bytes : List Byte) : Bus :=
  if 0x8000 ≤ address ∧ address + bytes.length ≤ 0x10000 then
    { b with mem := Cells.write (memDefault b.cfg) b.mem address bytes }
  else b

/-- `rom[bank mod PRG_BANKS]`. -/
def Cart.romBank (c : Cart) (bank : Nat) : List Byte := c.rom.getD (bank % c.prgBanks) []

/-- `loadRomBank(bank, address)` (R438). -/
def Bus.loadRomBank (b : Bus) (bank address : Nat) : Bus := b.copyProgram address ((b.cart.romBank bank).take 0x4000)

/-- `load32kRomBank(bank, address)` (R438). -/
def Bus.load32kRomBank (b : Bus) (bank address : Nat) : Bus :=
  (b.loadRomBank (2 * bank) address).loadRomBank (2 * bank + 1) (address + 0x4000)

/-- `load8kRomBank(bank8k, address)` (R438). -/
def Bus.load8kRomBank (b : Bus) (bank8k address : Nat) : Bus :=
  b.copyProgram address (((b.cart.romBank (bank8k / 2)).drop (bank8k % 2 * 0x2000)).take 0x2000)

/-! Pattern-bank primitives (R442). -/

/-- `TriggerRendering()` on the bus. -/
def Bus.triggerRendering (b : Bus) : Bus := { b with ppu := b.ppu.triggerRendering b.cfg }

/-- A slice copied into the pattern window, straight into `vram`; one that would leave the window is not copied (log entry 17). -/
def Bus.copyPattern (b : Bus) (address : Nat) (bytes : List Byte) : Bus :=
  if address + bytes.length ≤ 0x2000 then
    { b with ppu := { b.ppu with vram := Cells.write zeroByte b.ppu.vram address bytes } }
  else b

/-- `vrom[bank mod CHR_BANKS]`. -/
def Cart.vromBank (c : Cart) (bank : Nat) : List Byte := c.vrom.getD (bank % c.chrBanks) []

/-- A pattern slice of `size` bytes, sub-bank `k` of those a 4 KB bank holds, after `TriggerRendering()`; nothing without pattern banks. -/
def Bus.loadPattern (b : Bus) (size k address : Nat) : Bus :=
  if b.cart.chrBanks = 0 then b
  else
    let per := 0x1000 / size
    b.triggerRendering.copyPattern address (((b.cart.vromBank (k / per)).drop (k % per * size)).take size)

/-- `loadVromBank(bank, address)` (R442). -/
def Bus.loadVromBank (b : Bus) (bank address : Nat) : Bus := b.loadPattern 0x1000 bank address

/-- `load8kVromBank(bank4k, address)` (R442). -/
def Bus.load8kVromBank (b : Bus) (bank4k address : Nat) : Bus :=
  if b.cart.chrBanks = 0 then b
  else (b.triggerRendering.loadVromBank bank4k address).loadVromBank (bank4k + 1) (address + 0x1000)

/-- `load2kVromBank(bank2k, address)` (R442). -/
def Bus.load2kVromBank (b : Bus) (bank2k address : Nat) : Bus := b.loadPattern 0x800 bank2k address

/-- `load1kVromBank(bank1k, address)` (R442). -/
def Bus.load1kVromBank (b : Bus) (bank1k address : Nat) : Bus := b.loadPattern 0x400 bank1k address

/-- `SetMirroring(mode)` on the bus (45_ppu.md rule R341). -/
def Bus.setMirroring (b : Bus) (mode : Mirroring) : Bus := { b with ppu := b.ppu.setMirroring b.cfg mode }

/-! Open kinds (R452). -/

/-- `mem[a]`. -/
def Bus.memAt (b : Bus) (a : Nat) : Byte := Cells.get (memDefault b.cfg) b.mem a

/-- `mem[a] <- v`. -/
def Bus.setMem (b : Bus) (a : Nat) (v : Byte) : Bus := { b with mem := Cells.set (memDefault b.cfg) b.mem a v }

/-- The value of an expression of an open kind at an access to `addr` with byte `value`. -/
def evalExpr (b : Bus) (addr value : Nat) : MapExpr → Nat
  | .lit n => n
  | .addr => addr
  | .value => value
  | .reg k => b.mapper.regs.getD k 0
  | .mem a => (b.memAt (evalExpr b addr value a % 0x10000)).toNat
  | .irqCounter => b.mapper.irqCounter.toNat
  | .irqLatch => b.mapper.irqLatchValue
  | .irqEnable => if b.mapper.irqEnable then 1 else 0
  | .prgBanks => b.cart.prgBanks
  | .chrBanks => b.cart.chrBanks
  | .add x y => evalExpr b addr value x + evalExpr b addr value y
  | .sub x y => evalExpr b addr value x - evalExpr b addr value y
  | .mul x y => evalExpr b addr value x * evalExpr b addr value y
  | .div x y => evalExpr b addr value x / evalExpr b addr value y
  | .mod x y => evalExpr b addr value x % evalExpr b addr value y
  | .band x y => evalExpr b addr value x &&& evalExpr b addr value y
  | .bor x y => evalExpr b addr value x ||| evalExpr b addr value y
  | .bxor x y => evalExpr b addr value x ^^^ evalExpr b addr value y
  | .eq x y => if evalExpr b addr value x = evalExpr b addr value y then 1 else 0
  | .lt x y => if evalExpr b addr value x < evalExpr b addr value y then 1 else 0

/-- The mirroring mode of a number (`MapAction.setMirroring`). -/
def mirroringOf (n : Nat) : Mirroring :=
  if n = 0 then .horizontal else if n = 1 then .vertical else if n = 2 then .singleScreen0
  else if n = 3 then .singleScreen1 else .fourScreen

/-- One action of an open kind. -/
def runAction (addr value : Nat) : MapAction → Bus → Bus
  | .loadRomBank bank a, b => b.loadRomBank (evalExpr b addr value bank) (evalExpr b addr value a)
  | .load32kRomBank bank a, b => b.load32kRomBank (evalExpr b addr value bank) (evalExpr b addr value a)
  | .load8kRomBank bank a, b => b.load8kRomBank (evalExpr b addr value bank) (evalExpr b addr value a)
  | .loadVromBank bank a, b => b.loadVromBank (evalExpr b addr value bank) (evalExpr b addr value a)
  | .load8kVromBank bank a, b => b.load8kVromBank (evalExpr b addr value bank) (evalExpr b addr value a)
  | .load2kVromBank bank a, b => b.load2kVromBank (evalExpr b addr value bank) (evalExpr b addr value a)
  | .load1kVromBank bank a, b => b.load1kVromBank (evalExpr b addr value bank) (evalExpr b addr value a)
  | .setMirroring m, b => b.setMirroring (mirroringOf (evalExpr b addr value m))
  | .setReg k v, b => { b with mapper := { b.mapper with regs := b.mapper.regs.set k (evalExpr b addr value v) } }
  | .setIrqCounter v, b => { b with mapper := { b.mapper with irqCounter := evalExpr b addr value v } }
  | .setIrqLatch v, b => { b with mapper := { b.mapper with irqLatchValue := evalExpr b addr value v } }
  | .setIrqEnable v, b => { b with mapper := { b.mapper with irqEnable := decide (evalExpr b addr value v ≠ 0) } }
  | .onlyIf c act, b => if evalExpr b addr value c = 0 then b else runAction addr value act b

/-- The actions of an open kind in order. -/
def runActions (acts : List MapAction) (addr value : Nat) (b : Bus) : Bus :=
  acts.foldl (fun b act => runAction addr value act b) b

/-- One effect of a replacement read or write of an open kind. -/
def runEffect (addr value : Nat) : MapEffect → Bus → Bus
  | .act a, b => runAction addr value a b
  | .storeMem a v, b => b.setMem (evalExpr b addr value a % 0x10000) (BitVec.ofNat 8 (evalExpr b addr value v))
  | .persist a v, b =>
    { b with events :=
        .batteryWrite (BitVec.ofNat 16 (evalExpr b addr value a)) (BitVec.ofNat 8 (evalExpr b addr value v)) :: b.events }
  | .onlyIf c e, b => if evalExpr b addr value c = 0 then b else runEffect addr value e b

/-- The effects of a replacement read or write in order. -/
def runEffects (effects : List MapEffect) (addr value : Nat) (b : Bus) : Bus :=
  effects.foldl (fun b e => runEffect addr value e b) b

/-- The open kind of the loaded cartridge (R452), if its type is not one of this file's. -/
def Bus.openKind (b : Bus) : Option MapperKind := Machine.openKind b.cfg b.cart.mapperType

/-- Whether a mapper type has a registered kind (R434). -/
def kindRegistered (cfg : Config) (t : Nat) : Bool := specifiedType t || (openKind cfg t).isSome

/-! Type 4 (R450). -/

/-- `FixLast()`. -/
def Bus.fixLast (b : Bus) : Bus :=
  if b.mapper.prgAddressChanged then
    let b := b.load8kRomBank (2 * (b.cart.prgBanks - 1)) (if b.mapper.prgAddressSelect then 0x8000 else 0xC000)
    { b with mapper := { b.mapper with prgAddressChanged := false } }
  else b

/-- `Execute(cmd, arg)`. -/
def Bus.mmc3Execute (b : Bus) (cmd : BitVec 3) (arg : Nat) : Bus :=
  let c := if b.mapper.chrAddressSelect then 0x1000 else 0x0000
  if cmd = 0 then (b.load1kVromBank arg c).load1kVromBank (arg + 1) (c ^^^ 0x0400)
  else if cmd = 1 then (b.load1kVromBank arg (c ^^^ 0x0800)).load1kVromBank (arg + 1) (c ^^^ 0x0C00)
  else if cmd = 2 then b.load1kVromBank arg (c ^^^ 0x1000)
  else if cmd = 3 then b.load1kVromBank arg (c ^^^ 0x1400)
  else if cmd = 4 then b.load1kVromBank arg (c ^^^ 0x1800)
  else if cmd = 5 then b.load1kVromBank arg (c ^^^ 0x1C00)
  else if cmd = 6 then b.fixLast.load8kRomBank arg (if b.mapper.prgAddressSelect then 0xC000 else 0x8000)
  else (b.load8kRomBank arg 0xA000).fixLast

/-- The write to 0x8000 (even) of type 4. -/
def MapperRegs.mmc3Command (r : MapperRegs) (v : Byte) : MapperRegs :=
  { r with command := v.extractLsb' 0 3
           prgAddressChanged := if v.getLsbD 6 ≠ r.prgAddressSelect then true else r.prgAddressChanged
           prgAddressSelect := v.getLsbD 6
           chrAddressSelect := v.getLsbD 7 }

/-- `KindWrite` of type 4 (R450), selected by `address & 0xE001`. -/
def Bus.mmc3Write (b : Bus) (address : Word) (v : Byte) : Bus :=
  let sel := address &&& 0xE001
  if sel = 0x8000 then { b with mapper := b.mapper.mmc3Command v }
  else if sel = 0x8001 then b.mmc3Execute b.mapper.command v.toNat
  else if sel = 0xA000 then b.setMirroring (if v.getLsbD 0 then .horizontal else .vertical)
  else if sel = 0xC000 then { b with mapper := { b.mapper with irqCounter := v.toNat } }
  else if sel = 0xC001 then { b with mapper := { b.mapper with irqLatchValue := v.toNat } }
  else if sel = 0xE000 then { b with mapper := { b.mapper with irqEnable := false } }
  else if sel = 0xE001 then { b with mapper := { b.mapper with irqEnable := true } }
  else b

/-! The contract's operations. -/

/-- `KindWrite(address, value)` (R446 to R450, R452). -/
def Bus.kindWrite (b : Bus) (address : Word) (v : Byte) : Bus :=
  let t := b.cart.mapperType
  if t = 0 then b.setMem address.toNat v
  else if t = 2 then b.loadRomBank v.toNat 0x8000
  else if t = 3 then b.load8kVromBank (2 * v.toNat) 0
  else if t = 4 then b.mmc3Write address v
  else if t = 7 then
    (b.load32kRomBank (v &&& 7).toNat 0x8000).setMirroring (if v.getLsbD 4 then .singleScreen1 else .singleScreen0)
  else
    match b.openKind with
    | none => b
    | some k => runActions k.kindWrite address.toNat v.toNat b

/-- `clockIrqCounter()` (R444): type 4 and the open kinds that have the counter. -/
def Bus.clockIrqCounter (b : Bus) : Bus :=
  if (b.cart.mapperType = 4 ∨ (b.openKind.map (·.hasIrqCounter)) = some true) ∧ b.mapper.irqEnable = true then
    if b.mapper.irqCounter - 1 < 0 then
      { b.requestIrq .normal with mapper := { b.mapper with irqCounter := b.mapper.irqLatchValue } }
    else { b with mapper := { b.mapper with irqCounter := b.mapper.irqCounter - 1 } }
  else b

/-- `latchAccess(address)` (R445): "no-op for most", an open kind's own actions. -/
def Bus.latchAccess (b : Bus) (address : Nat) : Bus :=
  match b.openKind with
  | none => b
  | some k => runActions k.latchAccess address 0 b

/-- The call of `latchAccess` for an address of the pattern range. -/
def Bus.latchPattern (b : Bus) (address : Nat) : Bus := if address < 0x2000 then b.latchAccess address else b

/-! Power-on layout (R440, R443, R447, R450). -/

/-- `LoadInitialPrg()`: the layout of types 2 and 4, an open kind's own, or the default of R440 for every kind that states none. -/
def Bus.loadInitialPrg (b : Bus) : Bus :=
  let t := b.cart.mapperType
  if t = 2 then (b.loadRomBank 0 0x8000).loadRomBank (b.cart.prgBanks - 1) 0xC000
  else if t = 4 then
    let last := 2 * (b.cart.prgBanks - 1)
    (((b.load8kRomBank last 0xC000).load8kRomBank (last + 1) 0xE000).load8kRomBank 0 0x8000).load8kRomBank 1 0xA000
  else
    match b.openKind.bind (·.initialPrg) with
    | some actions => runActions actions 0 0 b
    | none =>
      if 1 < b.cart.prgBanks then (b.loadRomBank 0 0x8000).loadRomBank 1 0xC000
      else (b.loadRomBank 0 0x8000).loadRomBank 0 0xC000

/-- `LoadInitialChr()`: an open kind's own layout, or the default of R440 for every kind that states none. -/
def Bus.loadInitialChr (b : Bus) : Bus :=
  match b.openKind.bind (·.initialChr) with
  | some actions => runActions actions 0 0 b
  | none =>
    if b.cart.chrBanks = 0 then b
    else if b.cart.chrBanks = 1 then (b.loadVromBank 0 0).loadVromBank 0 0x1000
    else (b.loadVromBank 0 0).loadVromBank 1 0x1000

/-- `LoadBatteryRam()` (R443) with this load's `BATTERY_RAM_INIT`. -/
def Bus.loadBatteryRam (b : Bus) (batteryRamInit : Option (List Byte)) : Bus :=
  match batteryRamInit with
  | none => b
  | some image =>
    if b.cart.battery = true ∧ image.length = 0x2000 then
      { b with mem := Cells.write (memDefault b.cfg) b.mem 0x6000 image }
    else b

/-- The mapper's `loadROM()` after validation (R440). -/
def Bus.mapperLoad (b : Bus) (batteryRamInit : Option (List Byte)) : Bus :=
  (b.loadInitialPrg.loadInitialChr.loadBatteryRam batteryRamInit).requestIrq .reset

end Sys2Proof.Machine
end

