-- ==== Sys2Proof/Machine/Ops.lean ====
section
/-!
DEFINITION. The operations over memory and registers that the instructions share: the CPU bus (20_memory.md rules R80, R81), the ports,
16-bit reads, the stack, register writes, the cycle count, and taking an interrupt or a trap and returning from one
(60_exceptions.md, 43_control_flow.md rules R262, R263).
-/

namespace Sys2Proof.Machine

/-! The controller ports (20_memory.md section 6). -/

/-- Button `k` of a controller, in the order of R40. -/
def Buttons.nth (b : Buttons) (k : Nat) : Bool :=
  if k = 0 then b.a else if k = 1 then b.b else if k = 2 then b.select else if k = 3 then b.start
  else if k = 4 then b.up else if k = 5 then b.down else if k = 6 then b.left else b.right

/-- The serial bit of step `s` (R100). -/
def serialByte (b : Buttons) (s : Nat) : Byte :=
  if s ≤ 7 then (if b.nth s then 0x41 else 0x40) else if s = 19 then 1 else 0

/-- Read 0x4016 (R100). -/
def Pads.read1 (p : Pads) : Byte × Pads :=
  (serialByte p.buttons1 p.strobe1, { p with strobe1 := (p.strobe1 + 1) % 24 })

/-- The light-gun bits of a read of 0x4017 (R102); a position outside the frame sees no white pixel (log entry 20). -/
def zapperBits (p : Pads) (buffer : PixTree Color) : Byte :=
  let white := p.zapper.any fun xy => decide (xy.1 < 256) && decide (xy.2 < 240) &&
    decide (buffer.get pixDepth (256 * xy.2 + xy.1) = 0xFFFFFF)
  (if white then 0 else 0x08) ||| (if p.zapperFired then 0x10 else 0)

/-- Read 0x4017 (R102). -/
def Pads.read2 (p : Pads) (buffer : PixTree Color) : Byte × Pads :=
  (serialByte p.buttons2 p.strobe2 ||| zapperBits p buffer, { p with strobe2 := (p.strobe2 + 1) % 24 })

/-- Write 0x4016 (R101): "reset both counters on a 1→0 transition of bit 0". -/
def Pads.writeStrobe (p : Pads) (v : Byte) : Pads :=
  if v.getLsbD 0 = false ∧ p.joypadLastWrite.getLsbD 0 = true then
    { p with strobe1 := 0, strobe2 := 0, joypadLastWrite := v }
  else { p with joypadLastWrite := v }

/-! The CPU bus (20_memory.md section 2). -/

/-- The backing byte of an address with the RAM mirror of R82 and no port dispatch: what sprite DMA reads (45_ppu.md rule R338). -/
def Bus.peek (b : Bus) (a : Nat) : Byte := b.memAt (if a < 0x2000 then a % 0x800 else a)

/-- A CPU read of PPU port `p` (R92). -/
def Bus.readPort (b : Bus) (p : Nat) : Byte × Bus :=
  if p = 0 then (b.memAt 0x2000, b)
  else if p = 1 then (b.memAt 0x2001, b)
  else if p = 2 then (b.ppu.readStatus.1, { b with ppu := b.ppu.readStatus.2 })
  else if p = 4 then (b.ppu.readSpriteData, b)
  else if p = 7 then
    let r := b.ppu.readDataByte
    let b' := { b with ppu := r.2 }.latchPattern b.ppu.vramAddress
    (r.1, { b' with ppu := b'.ppu.stepAddress })
  else (0, b)

/-- A CPU write of PPU port `p` (R93). -/
def Bus.writePort (b : Bus) (p : Nat) (v : Byte) : Bus :=
  if p = 0 then { b.setMem 0x2000 v with ppu := b.ppu.writeControl1 b.cfg v }
  else if p = 1 then { b.setMem 0x2001 v with ppu := b.ppu.writeControl2 b.cfg v }
  else if p = 3 then { b with ppu := b.ppu.writeSpriteAddress v }
  else if p = 4 then { b with ppu := b.ppu.writeSpriteData v }
  else if p = 5 then { b with ppu := b.ppu.writeScroll b.cfg v }
  else if p = 6 then
    let q := b.ppu.writeAddress b.cfg v
    { b with ppu := q }.latchPattern q.vramAddress
  else if p = 7 then
    let b' := { b with ppu := b.ppu.writeDataByte b.cfg v }.latchPattern b.ppu.vramAddress
    { b' with ppu := b'.ppu.stepAddress }
  else b

/-- The 256 source bytes of sprite DMA from page `v` (45_ppu.md rule R338). -/
def Bus.dmaBytes (b : Bus) (v : Byte) : List Byte := (List.range 256).map fun i => b.peek (256 * v.toNat + i)

/-- Write 0x4014: sprite DMA (45_ppu.md rule R338). -/
def Bus.spriteDma (b : Bus) (v : Byte) : Bus :=
  { b with ppu := b.ppu.spriteDma (b.dmaBytes v) }.addHalt 513

/-- The replacement read of an open kind for an address, if it has one (R436, R452); of two that cover the address the first in the list
(DESIGN CHOICE, log entry 28). -/
def Bus.openRead (b : Bus) (a : Nat) : Option MapRead :=
  (b.openKind.map (·.reads)).bind fun rs => rs.find? fun r => decide (r.lo ≤ a) && decide (a ≤ r.hi)

/-- The replacement write of an open kind for an address below 0x8000, if it has one (R452); of two that cover the address the first in
the list (DESIGN CHOICE, log entry 28). -/
def Bus.openWrite (b : Bus) (a : Nat) : Option MapWrite :=
  (b.openKind.map (·.writes)).bind fun ws => ws.find? fun w => decide (w.lo ≤ a) && decide (a ≤ w.hi)

/-- A read at or above 0x4018: `mem[addr]`, or an open kind's replacement (R80, R436), whose byte is computed before its effects happen
(DESIGN CHOICE, log entry 28). -/
def Bus.readHigh (b : Bus) (a : Nat) : Byte × Bus :=
  match b.openRead a with
  | none => (b.memAt a, b)
  | some r => (BitVec.ofNat 8 (evalExpr b a 0 r.result), runEffects r.effects a 0 b)

/-- `MemRead(addr, 1)` (R80). -/
def Bus.read (b : Bus) (addr : Word) : Byte × Bus :=
  let a := addr.toNat
  if a < 0x2000 then (b.memAt (a % 0x800), b)
  else if a < 0x4000 then b.readPort (a % 8)
  else if a < 0x4015 then (0, b)
  else if a = 0x4015 then (b.apu.readStatus.1, { b with apu := b.apu.readStatus.2 })
  else if a = 0x4016 then (b.pads.read1.1, { b with pads := b.pads.read1.2 })
  else if a = 0x4017 then
    ((b.pads.read2 b.ppu.buffer).1, { b with pads := (b.pads.read2 b.ppu.buffer).2 })
  else b.readHigh a

/-- A write to 0x4018..0x7FFF (R81): a store, and for 0x6000..0x7FFF "then the battery-RAM persistence callback". -/
def Bus.writeLow (b : Bus) (addr : Word) (v : Byte) : Bus :=
  match b.openWrite addr.toNat with
  | some w => runEffects w.effects addr.toNat v.toNat b
  | none =>
    if addr.toNat < 0x6000 then b.setMem addr.toNat v
    else { b.setMem addr.toNat v with events := .batteryWrite addr v :: b.events }

/-- `MemWrite(addr, 1, v)` (R81, R437). -/
def Bus.write (b : Bus) (addr : Word) (v : Byte) : Bus :=
  let a := addr.toNat
  if a < 0x2000 then b.setMem (a % 0x800) v
  else if a < 0x4000 then b.writePort (a % 8) v
  else if a = 0x4014 then b.spriteDma v
  else if a = 0x4016 then { b with pads := b.pads.writeStrobe v }
  else if a < 0x4018 then { b with apu := b.apu.write a v }
  else if a < 0x8000 then b.writeLow addr v
  else b.kindWrite addr v

/-! The same on the whole machine: a bus access changes no CPU register. -/

/-- `MemRead(addr, 1)`. -/
def State.read (s : State) (addr : Word) : Byte × State :=
  ((s.toBus.read addr).1, { s with toBus := (s.toBus.read addr).2 })

/-- `MemWrite(addr, 1, v)`. -/
def State.write (s : State) (addr : Word) (v : Byte) : State := { s with toBus := s.toBus.write addr v }

/-- `Read16(addr)` (R84): the low byte first, the second address reduced mod 65536. -/
def State.read16 (s : State) (addr : Word) : Word × State :=
  let lo := s.read addr
  let hi := lo.2.read (addr + 1)
  (wordOf lo.1 hi.1, hi.2)

/-- The pointer read of the indirect-absolute mode (30_encoding.md rule R138): the high byte's address wraps within the pointer's page. -/
def State.readPointer (s : State) (ptr : Word) : Word × State :=
  let lo := s.read ptr
  let hi := lo.2.read (wordOf (loByte ptr + 1) (hiByte ptr))
  (wordOf lo.1 hi.1, hi.2)

/-! Registers. -/

/-- `A <- v`. -/
def State.setA (s : State) (v : Byte) : State := { s with cpu := { s.cpu with a := v } }

/-- `X <- v`. -/
def State.setX (s : State) (v : Byte) : State := { s with cpu := { s.cpu with x := v } }

/-- `Y <- v`. -/
def State.setY (s : State) (v : Byte) : State := { s with cpu := { s.cpu with y := v } }

/-- `SP <- v`. -/
def State.setSP (s : State) (v : Byte) : State := { s with cpu := { s.cpu with sp := v } }

/-- `PC <- v`; a 16-bit value is already reduced (R24). -/
def State.setPC (s : State) (v : Word) : State := { s with cpu := { s.cpu with pc := v } }

/-- All seven flags written. -/
def State.setFlags (s : State) (f : Flags) : State := { s with cpu := { s.cpu with flags := f } }

/-- `SetNZ(v)` (R31). -/
def State.setNZ (s : State) (v : Byte) : State := s.setFlags (s.cpu.flags.setNZ v)

/-- The cycle count the CPU step returns (30_encoding.md rule R141). -/
def State.setCycles (s : State) (n : Nat) : State := { s with stepCycles := n }

/-! The stack (20_memory.md section 4). -/

/-- The stack address `0x0100 + SP`. -/
def stackAddr (sp : Byte) : Word := 0x0100 + sp.zeroExtend 16

/-- `Push(v)` (R86): store, then decrement. -/
def State.push (s : State) (v : Byte) : State := (s.write (stackAddr s.cpu.sp) v).setSP (s.cpu.sp - 1)

/-- `Pull()` (R87): increment, then read. -/
def State.pull (s : State) : Byte × State := (s.setSP (s.cpu.sp + 1)).read (stackAddr (s.cpu.sp + 1))

/-- A word pushed high byte first, so that the low byte ends at the lower address (R85). -/
def State.pushWord (s : State) (w : Word) : State := (s.push (hiByte w)).push (loByte w)

/-- A word pulled low byte first. -/
def State.pullWord (s : State) : Word × State :=
  let lo := s.pull
  let hi := lo.2.pull
  (wordOf lo.1 hi.1, hi.2)

/-! Taking an interrupt or a trap, and returning. -/

/-- The entry shared by a serviced interrupt and BRK (60_exceptions.md rule R507, 43_control_flow.md rule R262): push the return address
high byte first, push the assembled status byte, give the flags their new values, load `PC` from the vector. -/
def State.enter (s : State) (returnAddr : Word) (status : Byte) (flags : Flags) (vector : Word) : State :=
  let s := ((s.pushWord returnAddr).push status).setFlags flags
  let r := s.read16 vector
  r.2.setPC r.1

/-- The vector of an interrupt kind (60_exceptions.md rule R511). -/
def irqVector : IrqKind → Word
  | .normal => 0xFFFE
  | .nonMaskable => 0xFFFA
  | .reset => 0xFFFC

/-- The flags a serviced Normal interrupt leaves (R507, R512): `I <- 1; B <- 0`. -/
def Flags.afterIrq (f : Flags) : Flags := { f with i := true, b := false }

/-- The latch cleared; its kind is meaningful only while a request is pending (R33). -/
def State.clearIrq (s : State) : State := { s with irq := { s.irq with pending := false } }

/-- `InterruptDispatch()` (R507 to R509), run when a request is pending. -/
def State.dispatchIrq (s : State) : State :=
  (match s.irq.kind with
   | .normal =>
     if s.cpu.flags.i then s
     else s.enter s.cpu.pc s.cpu.flags.toByte s.cpu.flags.afterIrq (irqVector .normal)
   | .nonMaskable =>
     if s.ppu.f_nmiOnVblank then s.enter s.cpu.pc s.cpu.flags.toByte s.cpu.flags (irqVector .nonMaskable)
     else s
   | .reset => (s.read16 (irqVector .reset)).2.setPC (s.read16 (irqVector .reset)).1).clearIrq

/-- The return that RTI performs (43_control_flow.md rule R263, 60_exceptions.md rule R513): status, `PC` low, `PC` high. -/
def State.returnFromInterrupt (s : State) : State :=
  let p := s.pull
  let w := (p.2.setFlags (Flags.ofByte p.1)).pullWord
  w.2.setPC w.1

/-- The address that the illegal-opcode halt reports (decision D13). -/
def haltAddress (mode : HaltAddrMode) (opaddr : Word) : Word :=
  match mode with
  | .opcodeByte => opaddr
  | .afterOpcodeByte => opaddr + 1

/-- `IllegalOpcodeHalt(opaddr)` (60_exceptions.md rule R500): `Halted`, the host's callback, and the step counts as an idle step of
`HALT_CHUNK` cycles (48_scheduler_session.md rule R475); `PC` stays at the opcode. -/
def State.illegalOpcodeHalt (s : State) : State :=
  { s with halted := true
           events := .halt (haltAddress s.cfg.haltAddrMode s.cpu.pc) :: s.events
           stepCycles := s.cfg.haltChunk }

end Sys2Proof.Machine
end

