-- ==== Sys2Proof/Machine/Operands.lean ====
section
/-!
DEFINITION. Operands: the `PC` advance (30_encoding.md rule R122), the effective address of every addressing mode (R126 to R138), the page
crossing penalty (R139 to R141), the branch (R142), and the four shapes in which an instruction uses its operand: reading it,
storing to it, modifying it in place, or having none.
-/

namespace Sys2Proof.Machine

/-- The outcome of a meaning. -/
abbrev Result := Host.Outcome State Fault Refusal

/-- `PC <- u16(opaddr + d.length)` (R122). -/
def State.advance (s : State) (m : Mode) : State := s.setPC (s.cpu.pc + BitVec.ofNat 16 m.length)

/-- What an addressing mode resolves: `EA`, `pageCross`, and the machine after the pointer reads. -/
structure Resolved where
  ea : Word
  cross : Bool
  state : State

/-- A base address plus an unsigned 8-bit index, with the page test of R134. -/
def indexed (base : Word) (index : Byte) (s : State) : Resolved :=
  { ea := base + index.zeroExtend 16
    cross := hiByte base != hiByte (base + index.zeroExtend 16)
    state := s }

/-- `Resolve(d.mode, opaddr)` (R126 to R138), after `PC` was advanced. The implied and accumulator modes have no `EA`: 0 stands for
it and no well-formed instruction uses it. -/
def State.resolve (s : State) (m : Operand) : Resolved :=
  match m with
  | .zp op1 => { ea := op1.zeroExtend 16, cross := false, state := s }
  | .rel op1 => { ea := s.cpu.pc + op1.signExtend 16, cross := false, state := s }
  | .imp => { ea := 0, cross := false, state := s }
  | .abs op16 => { ea := op16, cross := false, state := s }
  | .acc => { ea := 0, cross := false, state := s }
  | .imm _ => { ea := s.cpu.pc - 1, cross := false, state := s }
  | .zpx op1 => { ea := (op1 + s.cpu.x).zeroExtend 16, cross := false, state := s }
  | .zpy op1 => { ea := (op1 + s.cpu.y).zeroExtend 16, cross := false, state := s }
  | .absx op16 => indexed op16 s.cpu.x s
  | .absy op16 => indexed op16 s.cpu.y s
  | .indx op1 =>
    let r := s.read16 ((op1 + s.cpu.x).zeroExtend 16)
    { ea := r.1, cross := decide (0x100 ≤ op1.toNat + s.cpu.x.toNat), state := r.2 }
  | .indy op1 =>
    let r := s.read16 (op1.zeroExtend 16)
    indexed r.1 s.cpu.y r.2
  | .ind op16 =>
    let r := s.readPointer op16
    { ea := r.1, cross := false, state := r.2 }

/-- `pays(kind, mode)` (R140). -/
def pays (k : Kind) (m : Mode) : Bool :=
  match k with
  | .adc | .cmp | .eor | .lda | .ldx | .ldy | .lax => true
  | .and | .ora | .sbc | .dcp | .isc | .rla | .rra | .slo | .sre | .ign => m != .indy
  | _ => false

/-- `cycles` of a non-branch (R141): the base count, and one more when a page crossing is paid for. -/
def State.charge (s : State) (k : Kind) (m : Mode) (cross : Bool) : State :=
  s.setCycles (baseCycles k m + if pays k m && cross then 1 else 0)

/-- An operand read: its value, `pageCross`, and the machine after the read. -/
structure OperandRead where
  value : Byte
  cross : Bool
  state : State

/-- The operand of an instruction, read once (R160, R190). An immediate byte was read by the fetch (R131; log entry 11); the
accumulator mode reads `A` (R130). -/
def State.readOperand (s : State) (m : Operand) : OperandRead :=
  match m with
  | .imm op1 => { value := op1, cross := false, state := s }
  | .acc => { value := s.cpu.a, cross := false, state := s }
  | m =>
    let r := s.resolve m
    let v := r.state.read r.ea
    { value := v.1, cross := r.cross, state := v.2 }

/-- An instruction that reads its operand and acts on registers and flags. -/
def State.reading (s : State) (k : Kind) (m : Operand) (act : Byte → State → State) : State :=
  let r := (s.advance m.mode).readOperand m
  (act r.value r.state).charge k m.mode r.cross

/-- An instruction that stores one byte to its effective address and reads nothing there (R160). -/
def State.storing (s : State) (k : Kind) (m : Operand) (v : Byte) : State :=
  let r := (s.advance m.mode).resolve m
  (r.state.write r.ea v).charge k m.mode r.cross

/-- What a read-modify-write operation computes from the old flags and the old byte. -/
structure Modified where
  value : Byte
  flags : Flags

/-- A read-modify-write instruction (R220): "exactly one read of EA followed by exactly one write of EA"; in accumulator mode the
operand and the destination are `A`. `act` is the operation, `after` what the combined kinds do with the written value. -/
def State.modifying (s : State) (k : Kind) (m : Operand) (act : Flags → Byte → Modified)
    (after : Byte → State → State) : State :=
  let s := s.advance m.mode
  match m with
  | .acc =>
    let o := act s.cpu.flags s.cpu.a
    (after o.value ((s.setA o.value).setFlags o.flags)).charge k .acc false
  | m =>
    let r := s.resolve m
    let v := r.state.read r.ea
    let o := act v.2.cpu.flags v.1
    (after o.value ((v.2.setFlags o.flags).write r.ea o.value)).charge k m.mode r.cross

/-- An instruction with no operand (R128). -/
def State.implied (s : State) (k : Kind) (act : State → State) : State :=
  (act (s.advance .imp)).charge k .imp false

/-- `branchBonus` of a taken branch (R142): `next` is the address of the instruction after the branch. -/
def branchBonus (next target : Word) : Nat := if hiByte next = hiByte target then 1 else 2

/-- A conditional branch (43_control_flow.md rule R250). -/
def State.branch (s : State) (k : Kind) (disp : Byte) (cond : Bool) : State :=
  let s := s.advance .rel
  let target := (s.resolve (.rel disp)).ea
  if cond then (s.setPC target).setCycles (baseCycles k .rel + branchBonus s.cpu.pc target)
  else s.setCycles (baseCycles k .rel)

/-! Fetching (R121, R124). -/

/-- The operand bytes that the fetch of an opcode reads, in the order of R124: none for a 1-byte instruction or an unfilled slot. SKB
skips its byte without reading it (44_flags_stack_nop.md rule R296): the byte is taken from the backing array (log entry 10). -/
def State.fetchOperands (s : State) (opcode : Byte) (opaddr : Word) : Byte × Byte × State :=
  match opdata opcode with
  | none => (0, 0, s)
  | some d =>
    if d.length = 1 then (0, 0, s)
    else if d.kind = .skb then (s.peek (opaddr + 1).toNat, 0, s)
    else
      let b1 := s.read (opaddr + 1)
      if d.length = 2 then (b1.1, 0, b1.2)
      else
        let b2 := b1.2.read (opaddr + 2)
        (b1.1, b2.1, b2.2)

/-- The instruction at `PC` and the machine after its bytes were read. -/
def State.fetch (s : State) : Instr × State :=
  let op := s.read s.cpu.pc
  let rest := op.2.fetchOperands op.1 s.cpu.pc
  (decodeBytes op.1 rest.1 rest.2.1, rest.2.2)

end Sys2Proof.Machine
end

