-- ==== Sys2Proof/Machine/Control.lean ====
section
/-!
DEFINITION. Branches, jumps, subroutines, the software interrupt, the return from interrupt, and the unfilled opcode slot
(43_control_flow.md; 60_exceptions.md rule R500), one meaning per instruction.
-/

namespace Sys2Proof.Machine

/-- BCC (R251). -/
def execBcc (disp : Byte) (s : State) : Result := .next (s.branch .bcc disp (!s.cpu.flags.c))

/-- BCS (R252). -/
def execBcs (disp : Byte) (s : State) : Result := .next (s.branch .bcs disp s.cpu.flags.c)

/-- BEQ (R253). -/
def execBeq (disp : Byte) (s : State) : Result := .next (s.branch .beq disp s.cpu.flags.z)

/-- BNE (R254). -/
def execBne (disp : Byte) (s : State) : Result := .next (s.branch .bne disp (!s.cpu.flags.z))

/-- BMI (R255). -/
def execBmi (disp : Byte) (s : State) : Result := .next (s.branch .bmi disp s.cpu.flags.n)

/-- BPL (R256). -/
def execBpl (disp : Byte) (s : State) : Result := .next (s.branch .bpl disp (!s.cpu.flags.n))

/-- BVC (R257). -/
def execBvc (disp : Byte) (s : State) : Result := .next (s.branch .bvc disp (!s.cpu.flags.v))

/-- BVS (R258). -/
def execBvs (disp : Byte) (s : State) : Result := .next (s.branch .bvs disp s.cpu.flags.v)

/-- JMP (R259). -/
def execJmp (m : Operand) (s : State) : Result :=
  let r := (s.advance m.mode).resolve m
  .next ((r.state.setPC r.ea).charge .jmp m.mode r.cross)

/-- JSR (R260): pushes the address of its own last byte. -/
def execJsr (target : Word) (s : State) : Result :=
  .next ((((s.advance .abs).pushWord (s.cpu.pc + 2)).setPC target).charge .jsr .abs false)

/-- RTS (R261): the pulled word plus one. -/
def execRts (s : State) : Result :=
  .next (s.implied .rts fun s => s.pullWord.2.setPC (s.pullWord.1 + 1))

/-- The flags BRK leaves (R262): `B <- 1` before the push, `I <- 1` after it. -/
def Flags.afterBrk (f : Flags) : Flags := { f with b := true, i := true }

/-- BRK (R262): the trap entry, with the return address `opaddr + 2` and `B` = 1 in the pushed status. -/
def execBrk (s : State) : Result :=
  .next (s.implied .brk fun t =>
    t.enter (s.cpu.pc + 2) { s.cpu.flags with b := true }.toByte s.cpu.flags.afterBrk 0xFFFE)

/-- RTI (R263). -/
def execRti (s : State) : Result := .next (s.implied .rti fun s => s.returnFromInterrupt)

/-- An unfilled slot (R144): it raises `IllegalOpcodeHalt` with `PC` still at the opcode (R500). -/
def execUnfilled (_opcode : Byte) (s : State) : Result := .next s.illegalOpcodeHalt

end Sys2Proof.Machine
end

