-- ==== Sys2Proof/Machine/FlagStack.lean ====
section
/-!
DEFINITION. Flag set and clear, stack push and pull, no-operations (44_flags_stack_nop.md), one meaning per instruction.
-/

namespace Sys2Proof.Machine

/-- CLC (R280). -/
def execClc (s : State) : Result := .next (s.implied .clc fun s => s.setFlags { s.cpu.flags with c := false })

/-- SEC (R281). -/
def execSec (s : State) : Result := .next (s.implied .sec fun s => s.setFlags { s.cpu.flags with c := true })

/-- CLI (R282). -/
def execCli (s : State) : Result := .next (s.implied .cli fun s => s.setFlags { s.cpu.flags with i := false })

/-- SEI (R283). -/
def execSei (s : State) : Result := .next (s.implied .sei fun s => s.setFlags { s.cpu.flags with i := true })

/-- CLD (R284). -/
def execCld (s : State) : Result := .next (s.implied .cld fun s => s.setFlags { s.cpu.flags with d := false })

/-- SED (R285). -/
def execSed (s : State) : Result := .next (s.implied .sed fun s => s.setFlags { s.cpu.flags with d := true })

/-- CLV (R286). -/
def execClv (s : State) : Result := .next (s.implied .clv fun s => s.setFlags { s.cpu.flags with v := false })

/-- PHA (R290). -/
def execPha (s : State) : Result := .next (s.implied .pha fun s => s.push s.cpu.a)

/-- PLA (R291). -/
def execPla (s : State) : Result := .next (s.implied .pla fun s => (s.pull.2.setA s.pull.1).setNZ s.pull.1)

/-- PHP (R292): `B <- 1`, then the push of the status byte. -/
def execPhp (s : State) : Result :=
  .next (s.implied .php fun s =>
    let s := s.setFlags { s.cpu.flags with b := true }
    s.push s.cpu.flags.toByte)

/-- PLP (R293). -/
def execPlp (s : State) : Result := .next (s.implied .plp fun s => s.pull.2.setFlags (Flags.ofByte s.pull.1))

/-- NOP (R295), the documented opcode and its six copies. -/
def execNop (_opcode : Byte) (s : State) : Result := .next (s.implied .nop fun s => s)

/-- SKB (R296): the operand byte is skipped and not read. -/
def execSkb (_opcode _imm : Byte) (s : State) : Result := .next ((s.advance .imm).charge .skb .imm false)

/-- IGN (R297): the read happens, and nothing else. -/
def execIgn (_opcode : Byte) (m : Operand) (s : State) : Result := .next (s.reading .ign m fun _ s => s)

end Sys2Proof.Machine
end

