-- ==== Sys2Proof/Machine/LoadStore.lean ====
section
/-!
DEFINITION. Loads, stores and register transfers (40_load_store_transfer.md), one meaning per instruction.
-/

namespace Sys2Proof.Machine

/-- LDA (R161). -/
def execLda (m : Operand) (s : State) : Result :=
  .next (s.reading .lda m fun v s => (s.setA v).setNZ v)

/-- LDX (R162). -/
def execLdx (m : Operand) (s : State) : Result :=
  .next (s.reading .ldx m fun v s => (s.setX v).setNZ v)

/-- LDY (R163). -/
def execLdy (m : Operand) (s : State) : Result :=
  .next (s.reading .ldy m fun v s => (s.setY v).setNZ v)

/-- STA (R164). -/
def execSta (m : Operand) (s : State) : Result := .next (s.storing .sta m s.cpu.a)

/-- STX (R165). -/
def execStx (m : Operand) (s : State) : Result := .next (s.storing .stx m s.cpu.x)

/-- STY (R166). -/
def execSty (m : Operand) (s : State) : Result := .next (s.storing .sty m s.cpu.y)

/-- TAX (R167). -/
def execTax (s : State) : Result := .next (s.implied .tax fun s => (s.setX s.cpu.a).setNZ s.cpu.a)

/-- TAY (R168). -/
def execTay (s : State) : Result := .next (s.implied .tay fun s => (s.setY s.cpu.a).setNZ s.cpu.a)

/-- TSX (R169). -/
def execTsx (s : State) : Result := .next (s.implied .tsx fun s => (s.setX s.cpu.sp).setNZ s.cpu.sp)

/-- TXA (R170). -/
def execTxa (s : State) : Result := .next (s.implied .txa fun s => (s.setA s.cpu.x).setNZ s.cpu.x)

/-- TXS (R171): "the only transfer that writes no flag". -/
def execTxs (s : State) : Result := .next (s.implied .txs fun s => s.setSP s.cpu.x)

/-- TYA (R172). -/
def execTya (s : State) : Result := .next (s.implied .tya fun s => (s.setA s.cpu.y).setNZ s.cpu.y)

/-- LAX (R173): LDA and LDX of the same byte, read once. -/
def execLax (m : Operand) (s : State) : Result :=
  .next (s.reading .lax m fun v s => ((s.setA v).setX v).setNZ v)

/-- SAX (R174): stores `A AND X`, no flag. -/
def execSax (m : Operand) (s : State) : Result := .next (s.storing .sax m (s.cpu.a &&& s.cpu.x))

end Sys2Proof.Machine
end

