-- ==== Sys2Proof/Machine/Alu.lean ====
section
/-!
DEFINITION. Arithmetic, logic, compare and bit test (41_alu_arith_logic.md), one meaning per instruction. No instruction reads the decimal
flag (R205).
-/

namespace Sys2Proof.Machine

/-- The accumulator and the flags `C`, `V`, `N`, `Z` take the result of an addition or a subtraction. -/
def State.putAlu (s : State) (r : AluResult) : State := (s.setA r.value).setFlags (s.cpu.flags.ofAlu r)

/-- The addition of ADC on the machine (R191). -/
def State.addToA (s : State) (v : Byte) : State := s.putAlu (adder s.cpu.a v s.cpu.flags.c)

/-- The subtraction of SBC on the machine (R192). -/
def State.subtractFromA (s : State) (v : Byte) : State := s.putAlu (subtracter s.cpu.a v s.cpu.flags.c)

/-- `A <- v; SetNZ(A)`. -/
def State.putA (s : State) (v : Byte) : State := (s.setA v).setNZ v

/-- The comparison of a register with a byte on the machine (R196). -/
def State.compareWith (s : State) (r v : Byte) : State := s.setFlags (s.cpu.flags.compare r v)

/-- ADC (R191). -/
def execAdc (m : Operand) (s : State) : Result := .next (s.reading .adc m fun v s => s.addToA v)

/-- SBC (R192). -/
def execSbc (m : Operand) (s : State) : Result := .next (s.reading .sbc m fun v s => s.subtractFromA v)

/-- AND (R193). -/
def execAnd (m : Operand) (s : State) : Result := .next (s.reading .and m fun v s => s.putA (s.cpu.a &&& v))

/-- ORA (R194). -/
def execOra (m : Operand) (s : State) : Result := .next (s.reading .ora m fun v s => s.putA (s.cpu.a ||| v))

/-- EOR (R195). -/
def execEor (m : Operand) (s : State) : Result := .next (s.reading .eor m fun v s => s.putA (s.cpu.a ^^^ v))

/-- CMP (R196). -/
def execCmp (m : Operand) (s : State) : Result := .next (s.reading .cmp m fun v s => s.compareWith s.cpu.a v)

/-- CPX (R197). -/
def execCpx (m : Operand) (s : State) : Result := .next (s.reading .cpx m fun v s => s.compareWith s.cpu.x v)

/-- CPY (R198). -/
def execCpy (m : Operand) (s : State) : Result := .next (s.reading .cpy m fun v s => s.compareWith s.cpu.y v)

/-- BIT (R199). -/
def execBit (m : Operand) (s : State) : Result :=
  .next (s.reading .bit m fun v s => s.setFlags (s.cpu.flags.bitTest s.cpu.a v))

/-- ALR (R200): AND, then LSR of the accumulator. -/
def execAlr (imm : Byte) (s : State) : Result :=
  .next (s.reading .alr (.imm imm) fun v s =>
    let r := shiftLsr s.cpu.flags.c (s.cpu.a &&& v)
    (s.setA r.value).setFlags (s.cpu.flags.ofShift r))

/-- ANC (R201): AND, then the result's sign into carry. The opcode byte of the two copies makes no difference. -/
def execAnc (_opcode imm : Byte) (s : State) : Result :=
  .next (s.reading .anc (.imm imm) fun v s =>
    let r := s.cpu.a &&& v
    (s.setA r).setFlags ({ s.cpu.flags with c := r.msb }.setNZ r))

/-- ARR (R202). -/
def execArr (imm : Byte) (s : State) : Result :=
  .next (s.reading .arr (.imm imm) fun v s => s.putAlu (rotateArr s.cpu.a v s.cpu.flags.c))

/-- AXS (R203); `AXS_WRITES_V` says whether `V` is written. -/
def execAxs (imm : Byte) (s : State) : Result :=
  .next (s.reading .axs (.imm imm) fun v s =>
    let r := subtractAxs s.cpu.a s.cpu.x v
    (s.setX r.value).setFlags
      (s.cpu.flags.ofAlu { r with v := if s.cfg.axsWritesV then r.v else s.cpu.flags.v }))

end Sys2Proof.Machine
end

