-- ==== Sys2Proof/Machine/Shift.lean ====
section
/-!
DEFINITION. Shifts, rotates, increments, decrements and the undocumented read-modify-write combinations (42_shift_rmw.md), one meaning
per instruction.
-/

namespace Sys2Proof.Machine

/-- A shift as a read-modify-write operation: `C`, `N` and `Z` from the result (R221 to R224). -/
def shiftOp (f : Bool → Byte → ShiftResult) (fl : Flags) (v : Byte) : Modified :=
  { value := (f fl.c v).value, flags := fl.ofShift (f fl.c v) }

/-- The shift part of a combined kind (R231 to R234): it writes `C`; `N` and `Z` come from the second operation. -/
def shiftCarry (f : Bool → Byte → ShiftResult) (fl : Flags) (v : Byte) : Modified :=
  { value := (f fl.c v).value, flags := { fl with c := (f fl.c v).c } }

/-- An increment or decrement by `d` as a read-modify-write operation: `N` and `Z` (R225, R226). -/
def addOp (d : Byte) (fl : Flags) (v : Byte) : Modified := { value := v + d, flags := fl.setNZ (v + d) }

/-- The increment or decrement part of DCP and ISC (R235, R236): no flag. -/
def addOnly (d : Byte) (fl : Flags) (v : Byte) : Modified := { value := v + d, flags := fl }

/-- The second operation of a plain read-modify-write instruction: none. -/
def noSecond (_ : Byte) (s : State) : State := s

/-- ASL (R221). -/
def execAsl (m : Operand) (s : State) : Result := .next (s.modifying .asl m (shiftOp shiftAsl) noSecond)

/-- LSR (R222). -/
def execLsr (m : Operand) (s : State) : Result := .next (s.modifying .lsr m (shiftOp shiftLsr) noSecond)

/-- ROL (R223). -/
def execRol (m : Operand) (s : State) : Result := .next (s.modifying .rol m (shiftOp shiftRol) noSecond)

/-- ROR (R224). -/
def execRor (m : Operand) (s : State) : Result := .next (s.modifying .ror m (shiftOp shiftRor) noSecond)

/-- INC (R225). -/
def execInc (m : Operand) (s : State) : Result := .next (s.modifying .inc m (addOp 1) noSecond)

/-- DEC (R226). -/
def execDec (m : Operand) (s : State) : Result := .next (s.modifying .dec m (addOp (-1)) noSecond)

/-- INX (R227). -/
def execInx (s : State) : Result := .next (s.implied .inx fun s => (s.setX (s.cpu.x + 1)).setNZ (s.cpu.x + 1))

/-- INY (R228). -/
def execIny (s : State) : Result := .next (s.implied .iny fun s => (s.setY (s.cpu.y + 1)).setNZ (s.cpu.y + 1))

/-- DEX (R229). -/
def execDex (s : State) : Result := .next (s.implied .dex fun s => (s.setX (s.cpu.x - 1)).setNZ (s.cpu.x - 1))

/-- DEY (R230). -/
def execDey (s : State) : Result := .next (s.implied .dey fun s => (s.setY (s.cpu.y - 1)).setNZ (s.cpu.y - 1))

/-- SLO (R231): ASL memory, then ORA with the written byte. -/
def execSlo (m : Operand) (s : State) : Result :=
  .next (s.modifying .slo m (shiftCarry shiftAsl) fun v s => s.putA (s.cpu.a ||| v))

/-- SRE (R232): LSR memory, then EOR with the written byte. -/
def execSre (m : Operand) (s : State) : Result :=
  .next (s.modifying .sre m (shiftCarry shiftLsr) fun v s => s.putA (s.cpu.a ^^^ v))

/-- RLA (R233): ROL memory, then AND with the written byte. -/
def execRla (m : Operand) (s : State) : Result :=
  .next (s.modifying .rla m (shiftCarry shiftRol) fun v s => s.putA (s.cpu.a &&& v))

/-- RRA (R234): ROR memory, then ADC with the written byte and the carry the rotate produced. -/
def execRra (m : Operand) (s : State) : Result :=
  .next (s.modifying .rra m (shiftCarry shiftRor) fun v s => s.addToA v)

/-- DCP (R235): DEC memory, then CMP with the written byte. -/
def execDcp (m : Operand) (s : State) : Result :=
  .next (s.modifying .dcp m (addOnly (-1)) fun v s => s.compareWith s.cpu.a v)

/-- ISC (R236): INC memory, then SBC with the written byte and the incoming carry. -/
def execIsc (m : Operand) (s : State) : Result :=
  .next (s.modifying .isc m (addOnly 1) fun v s => s.subtractFromA v)

end Sys2Proof.Machine
end

