-- ==== Sys2Proof/Machine/Dispatch.lean ====
section
/-!
DEFINITION. The dispatch: one arm per constructor of `Instr`, each one direct call of its meaning.
-/

namespace Sys2Proof.Machine

def exec (i : Instr) (s : State) : Host.Outcome State Fault Refusal :=
  match i with
  | .adc m => Sys2Proof.Machine.execAdc m s
  | .and m => Sys2Proof.Machine.execAnd m s
  | .asl m => Sys2Proof.Machine.execAsl m s
  | .bcc disp => Sys2Proof.Machine.execBcc disp s
  | .bcs disp => Sys2Proof.Machine.execBcs disp s
  | .beq disp => Sys2Proof.Machine.execBeq disp s
  | .bit m => Sys2Proof.Machine.execBit m s
  | .bmi disp => Sys2Proof.Machine.execBmi disp s
  | .bne disp => Sys2Proof.Machine.execBne disp s
  | .bpl disp => Sys2Proof.Machine.execBpl disp s
  | .brk => Sys2Proof.Machine.execBrk s
  | .bvc disp => Sys2Proof.Machine.execBvc disp s
  | .bvs disp => Sys2Proof.Machine.execBvs disp s
  | .clc => Sys2Proof.Machine.execClc s
  | .cld => Sys2Proof.Machine.execCld s
  | .cli => Sys2Proof.Machine.execCli s
  | .clv => Sys2Proof.Machine.execClv s
  | .cmp m => Sys2Proof.Machine.execCmp m s
  | .cpx m => Sys2Proof.Machine.execCpx m s
  | .cpy m => Sys2Proof.Machine.execCpy m s
  | .dec m => Sys2Proof.Machine.execDec m s
  | .dex => Sys2Proof.Machine.execDex s
  | .dey => Sys2Proof.Machine.execDey s
  | .eor m => Sys2Proof.Machine.execEor m s
  | .inc m => Sys2Proof.Machine.execInc m s
  | .inx => Sys2Proof.Machine.execInx s
  | .iny => Sys2Proof.Machine.execIny s
  | .jmp m => Sys2Proof.Machine.execJmp m s
  | .jsr target => Sys2Proof.Machine.execJsr target s
  | .lda m => Sys2Proof.Machine.execLda m s
  | .ldx m => Sys2Proof.Machine.execLdx m s
  | .ldy m => Sys2Proof.Machine.execLdy m s
  | .lsr m => Sys2Proof.Machine.execLsr m s
  | .nop opcode => Sys2Proof.Machine.execNop opcode s
  | .ora m => Sys2Proof.Machine.execOra m s
  | .pha => Sys2Proof.Machine.execPha s
  | .php => Sys2Proof.Machine.execPhp s
  | .pla => Sys2Proof.Machine.execPla s
  | .plp => Sys2Proof.Machine.execPlp s
  | .rol m => Sys2Proof.Machine.execRol m s
  | .ror m => Sys2Proof.Machine.execRor m s
  | .rti => Sys2Proof.Machine.execRti s
  | .rts => Sys2Proof.Machine.execRts s
  | .sbc m => Sys2Proof.Machine.execSbc m s
  | .sec => Sys2Proof.Machine.execSec s
  | .sed => Sys2Proof.Machine.execSed s
  | .sei => Sys2Proof.Machine.execSei s
  | .sta m => Sys2Proof.Machine.execSta m s
  | .stx m => Sys2Proof.Machine.execStx m s
  | .sty m => Sys2Proof.Machine.execSty m s
  | .tax => Sys2Proof.Machine.execTax s
  | .tay => Sys2Proof.Machine.execTay s
  | .tsx => Sys2Proof.Machine.execTsx s
  | .txa => Sys2Proof.Machine.execTxa s
  | .txs => Sys2Proof.Machine.execTxs s
  | .tya => Sys2Proof.Machine.execTya s
  | .alr imm => Sys2Proof.Machine.execAlr imm s
  | .anc opcode imm => Sys2Proof.Machine.execAnc opcode imm s
  | .arr imm => Sys2Proof.Machine.execArr imm s
  | .axs imm => Sys2Proof.Machine.execAxs imm s
  | .lax m => Sys2Proof.Machine.execLax m s
  | .sax m => Sys2Proof.Machine.execSax m s
  | .dcp m => Sys2Proof.Machine.execDcp m s
  | .isc m => Sys2Proof.Machine.execIsc m s
  | .rla m => Sys2Proof.Machine.execRla m s
  | .rra m => Sys2Proof.Machine.execRra m s
  | .slo m => Sys2Proof.Machine.execSlo m s
  | .sre m => Sys2Proof.Machine.execSre m s
  | .skb opcode imm => Sys2Proof.Machine.execSkb opcode imm s
  | .ign opcode m => Sys2Proof.Machine.execIgn opcode m s
  | .unfilled opcode => Sys2Proof.Machine.execUnfilled opcode s

end Sys2Proof.Machine
end

