-- ==== Sys2Proof/Machine/Sound.lean ====
section
/-!
DEFINITION. `ApuStep` on the bus (46_apu.md rules R390 to R410), with the DMC's byte fetch through the CPU's bus (R404), its halt
cycles and both interrupt requests.
-/

namespace Sys2Proof.Machine

/-- The output unit of the DMC (R404): one bit of the shift byte moves the delta counter. -/
def Dmc.outputBit (d : Dmc) : Dmc :=
  if d.hasSample then
    let d := { d with deltaCounter :=
      if d.data.getLsbD 0 then (if d.deltaCounter < 63 then d.deltaCounter + 1 else d.deltaCounter)
      else d.deltaCounter - 1 }
    { d with sample := if d.isEnabled then d.level else 0, data := d.data >>> 1 }
  else d

/-- The DMC on the bus replaced. -/
def Bus.setDmc (b : Bus) (d : Dmc) : Bus := { b with apu := { b.apu with dmc := d } }

/-- `NextSample()` (R404): a full bus read, and 4 halt cycles. -/
def Bus.nextSample (b : Bus) : Bus :=
  let r := b.read b.apu.dmc.playAddress
  let d := r.2.apu.dmc
  (r.2.addHalt 4).setDmc
    { d with data := r.1
             playLengthCounter := d.playLengthCounter - 1
             playAddress := if d.playAddress = 0xFFFF then 0x8000 else d.playAddress + 1
             hasSample := true }

/-- The restart of a looping sample (R404). -/
def Dmc.restart (d : Dmc) : Dmc :=
  if d.playLengthCounter = 0 ∧ d.playMode = .loop then
    { d with playAddress := d.playStartAddress, playLengthCounter := d.playLength }
  else d

/-- The end-of-sample interrupt flag (R404). -/
def Dmc.flagEnd (d : Dmc) : Dmc :=
  if d.playLengthCounter = 0 ∧ d.playMode = .irq then { d with irqGenerated := true } else d

/-- `EndOfSample()` (R404). -/
def Bus.endOfSample (b : Bus) : Bus :=
  let b := b.setDmc b.apu.dmc.restart
  if 0 < b.apu.dmc.playLengthCounter then
    let b := b.nextSample
    b.setDmc b.apu.dmc.flagEnd
  else b

/-- The bit counter of `ClockDmc()` (R404). -/
def Bus.dmcCount (b : Bus) : Bus :=
  let b := b.setDmc { b.apu.dmc with dmaCounter := b.apu.dmc.dmaCounter - 1 }
  if b.apu.dmc.dmaCounter ≤ 0 then
    let b := (b.setDmc { b.apu.dmc with hasSample := false }).endOfSample
    b.setDmc { b.apu.dmc with dmaCounter := 8 }
  else b

/-- `ClockDmc()` (R404). -/
def Bus.clockDmc (b : Bus) : Bus :=
  let b := (b.setDmc b.apu.dmc.outputBit).dmcCount
  if b.apu.dmc.irqGenerated then b.requestIrq .normal else b

/-- The loop of `ClockDmcTimer` (R393), with as many turns as it can take. -/
def Bus.dmcLoop : Nat → Bus → Bus
  | 0, b => b
  | fuel + 1, b =>
    if b.apu.dmc.shiftCounter ≤ 0 ∧ 0 < b.apu.dmc.dmaFrequency then
      Bus.dmcLoop fuel
        (b.setDmc { b.apu.dmc with shiftCounter := b.apu.dmc.shiftCounter + b.apu.dmc.dmaFrequency }).clockDmc
    else b

/-- `ClockDmcTimer(n)` (R393). -/
def Bus.clockDmcTimer (b : Bus) (n : Nat) : Bus :=
  if b.apu.dmc.isEnabled then
    let b := b.setDmc { b.apu.dmc with shiftCounter := b.apu.dmc.shiftCounter - (8 * n : Nat) }
    Bus.dmcLoop (1 - b.apu.dmc.shiftCounter).toNat b
  else b

/-- The frame interrupt request (R397). -/
def Bus.requestFrameIrq (b : Bus) : Bus :=
  if b.apu.frameIrqEnabled && b.apu.frameIrqActive then b.requestIrq .normal else b

/-- Steps (g) to (i) of `ApuStep` (R398, R408, R409), with the audio callback. -/
def Bus.apuOutput (b : Bus) (n : Nat) : Bus :=
  let r := ((b.apu.advanceSequencer b.cfg n).accumulate n).advanceSampleTimer b.cfg n
  { b with apu := r.1
           events := match r.2 with
             | some lr => .audio lr.1 lr.2 :: b.events
             | none => b.events }

/-- Steps (c) to (i) of `ApuStep` for the clamped cycle count (R390). -/
def Bus.apuAdvance (b : Bus) (n : Nat) : Bus :=
  let b := b.clockDmcTimer n
  ({ b with apu := b.apu.clockTimers n }.requestFrameIrq).apuOutput n

/-- `ApuStep(nCycles)` (R390). -/
def Bus.apuStep (b : Bus) (nCycles : Nat) : Bus :=
  let w := b.apu.initWindow nCycles
  if w.2 then { b with apu := w.1 }
  else
    let c := w.1.clamp b.cfg nCycles
    { b with apu := c.2 }.apuAdvance c.1

end Sys2Proof.Machine
end

