-- ==== Sys2Proof/Machine/Scheduler.lean ====
section
/-!
DEFINITION. The frame-loop scheduler (48_scheduler_session.md section 1): the CPU step, the idle steps, and the APU and PPU advance that
follows each of them.
-/

namespace Sys2Proof.Machine

/-- `Dot()` on the bus (45_ppu.md rules R312, R315, R317): the NMI request and the frame callback at the end of a frame, then the
mapper's clock at the end of a rendered scanline. -/
def Bus.dot (b : Bus) : Bus × Bool :=
  let r := b.ppu.dot b.cfg
  let b := { b with ppu := r.ppu }
  let b := if r.frameDone then { b.requestIrq .nonMaskable with events := .frame r.picture :: b.events } else b
  (if r.clockMapper then b.clockIrqCounter else b, r.frameDone)

/-- At most `k` dots, stopping at frame completion: the dots not yet run are dropped (R472, R473). -/
def Bus.dots : Nat → Bus → Bus × Bool
  | 0, b => (b, false)
  | k + 1, b =>
    let r := b.dot
    if r.2 then r else Bus.dots k r.1

/-- The APU and PPU advance after the CPU part of a step (R471, R472); at frame completion `Frame()` returns (R473). -/
def State.afterCpu (s : State) : State :=
  let r := Bus.dots (3 * s.stepCycles) (s.toBus.apuStep s.stepCycles)
  { s with toBus := r.1
           inFrame := !r.2
           stepCycles := if r.2 then 0 else s.stepCycles }

/-- The interrupt dispatch at the top of a CPU step, when a request is pending (30_encoding.md rule R121). -/
def State.dispatchIfPending (s : State) : State := if s.irq.pending then s.dispatchIrq else s

/-- `CpuStep()` (30_encoding.md rule R121): dispatch, fetch, execute. -/
def State.cpuStep (s : State) : Result :=
  let f := s.dispatchIfPending.fetch
  exec f.1 f.2

/-- The CPU part of a step while the CPU idles (R474, R475): it is `Halted`, or halt cycles are left. -/
def State.idle (s : State) : State :=
  if s.halted then s.setCycles s.cfg.haltChunk
  else if s.cfg.haltChunk < s.haltCycles then
    { s with haltCycles := s.haltCycles - s.cfg.haltChunk, stepCycles := s.cfg.haltChunk }
  else { s with haltCycles := 0, stepCycles := s.haltCycles }

/-- One scheduler step inside a frame (R470, R474): the CPU part, then the devices. -/
def State.schedulerStep (s : State) : Result :=
  if s.halted = true ∨ s.haltCycles ≠ 0 then .next s.idle.afterCpu
  else
    match s.cpuStep with
    | .next t => .next t.afterCpu
    | .fault r => .fault r
    | .refused r => .refused r

end Sys2Proof.Machine
end

