-- ==== Sys2Proof/Machine/Session.lean ====
section
/-!
DEFINITION. The session interface (48_scheduler_session.md section 2): parsing and loading a ROM, the reset it performs, the host's
buttons and light gun, snapshots, and the start of a frame.
-/

namespace Sys2Proof.Machine

/-! The ROM container (47_mapper_cartridge.md rules R431 to R434). -/

/-- `MAPPER_TYPE` of a header (R432). -/
def headerMapperType (bytes : List Byte) : Nat :=
  let t := (bytes.getD 6 0 >>> 4) ||| (bytes.getD 7 0 &&& 0xF0)
  if ((bytes.drop 8).take 8).any (fun h => h != 0) then (t &&& 0x0F).toNat else t.toNat

/-- The magic tag, in a file of at least 16 bytes (R431). -/
def validMagic (bytes : List Byte) : Bool := decide (16 ≤ bytes.length) && bytes.take 4 == [0x4E, 0x45, 0x53, 0x1A]

/-- `off0` (R433). -/
def bankOffset (offset : TrainerOffset) (trainer : Bool) : Nat :=
  16 + if trainer then offset.withTrainer else offset.without

/-- The first `n` bytes of a list, 0 for those past its end. -/
def takePadded : Nat → List Byte → List Byte
  | 0, _ => []
  | n + 1, [] => 0 :: takePadded n []
  | n + 1, b :: bs => b :: takePadded n bs

/-- `count` banks of `size` bytes from file offset `off`; bytes past the end of the file are 0 (R433). -/
def sliceBanks (bytes : List Byte) (off size count : Nat) : List (List Byte) :=
  (List.range count).map fun b => takePadded size (bytes.drop (off + size * b))

/-- The cartridge record of a file (R431 to R433, R435). -/
def readCart (cfg : Config) (bytes : List Byte) : Cart :=
  let h6 := bytes.getD 6 0
  let prg := (bytes.getD 4 0).toNat
  let chr := 2 * (bytes.getD 5 0).toNat
  let off := bankOffset cfg.trainerOffset (h6.getLsbD 2)
  { prgBanks := prg
    chrBanks := chr
    rom := sliceBanks bytes off 0x4000 prg
    vrom := sliceBanks bytes (off + 0x4000 * prg) 0x1000 chr
    mirroring := h6.getLsbD 0
    battery := h6.getLsbD 1
    trainer := h6.getLsbD 2
    fourScreen := h6.getLsbD 3
    mapperType := headerMapperType bytes
    valid := true }

/-- `ParseRom(bytes)` with the validation of R434, in its order. -/
def parseRom (cfg : Config) (bytes : List Byte) : Except LoadError Cart :=
  if !validMagic bytes then .error .invalidRom
  else if !kindRegistered cfg (headerMapperType bytes) then .error (.unsupportedMapper (headerMapperType bytes))
  else if (bytes.getD 4 0).toNat < 1 then .error .noProgramBanks
  else .ok (readCart cfg bytes)

/-! Load and reset (R478, R544; 70_reset_and_hazards.md rules R540 to R542). -/

/-- The mirroring of a header (47_mapper_cartridge.md rule R441). -/
def Cart.initialMirroring (c : Cart) : Mirroring :=
  if c.fourScreen then .fourScreen else if c.mirroring then .vertical else .horizontal

/-- `ResetAll()` with a cartridge in place (R540): nothing survives but the configuration, the host's queue and the callbacks made. -/
def State.resetAll (s : State) (cart : Cart) : State :=
  { State.resetWith s.cfg with
    mapper := MapperRegs.reset s.cfg cart.mapperType
    cart := cart
    events := s.events
    hostCalls := s.hostCalls }

/-- The load of a valid cartridge (R478), with this load's `BATTERY_RAM_INIT`. -/
def State.install (s : State) (cart : Cart) (batteryRamInit : Option (List Byte)) : State :=
  let s := s.resetAll cart
  { s with toBus := (s.toBus.mapperLoad batteryRamInit).setMirroring cart.initialMirroring, loaded := true }

/-- The `BATTERY_RAM_INIT` of a load: the image the host hands back with it (R544), or the configuration's (log entry 37). -/
def State.batteryImage (s : State) (image : Option (List Byte)) : Option (List Byte) :=
  match image with
  | some bytes => some bytes
  | none => s.cfg.batteryRamInit

/-- A host event recorded. -/
def State.report (s : State) (e : HostEvent) : State := { s with events := e :: s.events }

/-- `LoadRom(bytes)` (R478), with the saved battery RAM the host hands back, if any: on a load error nothing of the machine changes
(R434). -/
def State.loadRom (s : State) (bytes : List Byte) (image : Option (List Byte)) : State :=
  match parseRom s.cfg bytes with
  | .error e => s.report (.loadFailed e)
  | .ok cart => s.install cart (s.batteryImage image)

/-! The other calls. -/

/-- Button `k` of a controller set. -/
def Buttons.put (b : Buttons) (k : Nat) (v : Bool) : Buttons :=
  if k = 0 then { b with a := v } else if k = 1 then { b with b := v }
  else if k = 2 then { b with select := v } else if k = 3 then { b with start := v }
  else if k = 4 then { b with up := v } else if k = 5 then { b with down := v }
  else if k = 6 then { b with left := v } else if k = 7 then { b with right := v } else b

/-- `ButtonDown(c, b)` and `ButtonUp(c, b)` (R481): "Any other `c` or `b` is ignored". -/
def Pads.putButton (p : Pads) (c b : Nat) (v : Bool) : Pads :=
  if c = 1 then { p with buttons1 := p.buttons1.put b v }
  else if c = 2 then { p with buttons2 := p.buttons2.put b v }
  else p

/-- `CreateSnapshot()` (R483). -/
def State.snapshot (s : State) : Snapshot where
  cpu := s.cpu
  halted := s.halted
  mem := s.mem
  irq := s.irq
  haltCycles := s.haltCycles
  pads := s.pads
  ppu := s.ppu
  apu := s.apu
  mapper := s.mapper
  cart := s.cart
  loaded := s.loaded

/-- `RestoreSnapshot(s)` (R483): the machine state is replaced; the configuration, the host's queue and the callbacks are not part of it. -/
def State.restore (s : State) (p : Snapshot) : State :=
  { s with cpu := p.cpu
           halted := p.halted
           mem := p.mem
           irq := p.irq
           haltCycles := p.haltCycles
           pads := p.pads
           ppu := p.ppu
           apu := p.apu
           mapper := p.mapper
           cart := p.cart
           loaded := p.loaded }

/-- The call of `Frame()` (R470): `NotLoaded`, or `StartFrame()` and the frame runs. -/
def State.startFrame (s : State) : State :=
  if s.loaded then { s with ppu := s.ppu.startFrame s.cfg, inFrame := true }
  else s.report .notLoaded

/-- One call of the host (R478 to R483). -/
def State.host (s : State) (call : HostCall) : State :=
  match call with
  | .frame => s.startFrame
  | .loadRom bytes image => s.loadRom bytes image
  | .buttonDown c b => { s with pads := s.pads.putButton c b true }
  | .buttonUp c b => { s with pads := s.pads.putButton c b false }
  | .zapperMove x y => { s with pads := { s.pads with zapper := some (x, y) } }
  | .zapperFireDown => { s with pads := { s.pads with zapperFired := true } }
  | .zapperFireUp => { s with pads := { s.pads with zapperFired := false } }
  | .createSnapshot => s.report (.snapshot s.snapshot)
  | .restoreSnapshot p => s.restore p

end Sys2Proof.Machine
end

