-- ==== Sys2Proof/Machine/Step.lean ====
section
/-!
DEFINITION. One step of the machine: inside a frame one scheduler step (48_scheduler_session.md rule R470), between frames the next call of
the host; a host with no call left to make calls `Frame()` (log entry 7).
-/

namespace Sys2Proof.Machine

/-- One step. -/
def step (s : State) : Host.Outcome State Fault Refusal :=
  if s.cfg.ok then
    if s.inFrame then s.schedulerStep
    else
      match s.hostCalls with
      | [] => .next (s.host .frame)
      | call :: rest => .next ({ s with hostCalls := rest }.host call)
  else .refused .badConfig

/-- A byte placed where `MemRead` of a RAM or plain address finds it. -/
def State.place (s : State) (addr : Word) (v : Byte) : State :=
  { s with toBus := s.toBus.setMem (if addr.toNat < 0x2000 then addr.toNat % 0x800 else addr.toNat) v }

/-- Whether an address is a port of R80's table. -/
def isPort (addr : Word) : Bool := decide (0x2000 ≤ addr.toNat) && decide (addr.toNat < 0x4018)

/-- Where an instruction of up to 3 bytes is placed to be fetched next: at `PC`, or at 0x8000 when a byte of it would lie in a port. -/
def fetchPlace (pc : Word) : Word := if isPort pc || isPort (pc + 1) || isPort (pc + 2) then 0x8000 else pc

/-- The machine with an instruction placed where the next step fetches it, inside a frame, with nothing that would come first (an
interrupt dispatch, an idle step): this stands for the load of a program (log entry 6). -/
def State.withFetchWord (s : State) (nbits w : Nat) : State :=
  let v := w % 2 ^ nbits
  let pc := fetchPlace s.cpu.pc
  let s := ((s.setPC pc).place pc (BitVec.ofNat 8 v)).place (pc + 1) (BitVec.ofNat 8 (v / 0x100))
  let s := s.place (pc + 2) (BitVec.ofNat 8 (v / 0x10000))
  { s with irq := { s.irq with pending := false }
           haltCycles := 0
           halted := false
           loaded := true
           inFrame := true }

end Sys2Proof.Machine
end

