-- ==== Sys2Proof/Safety.lean ====
section
/-!
DEFINITION. What a reachable machine keeps: the invariant that every step preserves, part by part, and the conditions under which an
address is plain memory. Every part is decidable.
-/

namespace Sys2Proof.Machine

/-- The PPU's invariant: its stores and buffers are in canonical form, `curX` and `scanline` are in the ranges of rule R49, the unused
status bits read 0 (R47), a recorded sprite-0 hit is a pixel of the frame (R313), and the tile-row cache has 32 places (R55). -/
abbrev Ppu.Inv (p : Ppu) : Prop :=
  Cells.wf zeroByte 0x8000 p.vram ∧ Cells.wf zeroByte 0x100 p.spriteMem ∧
    p.buffer.wf pixDepth = true ∧ p.bgbuffer.wf pixDepth = true ∧ p.pixrendered.wf pixDepth = true ∧
    p.curX ≤ 340 ∧ p.scanline ≤ 261 ∧ p.ppuStatus &&& 0x3F = 0 ∧
    (∀ xy ∈ p.spr0Hit, xy.1 < 256 ∧ xy.2 < 240) ∧ p.scantile.length = 32 ∧ p.attrib.length = 32

/-- The APU's invariant: the noise register "must be nonzero or the register never changes" (R60), the noise channel's divisor is
nonzero (R410), and the DMC's delta counter has 6 bits (R61). -/
abbrev Apu.Inv (a : Apu) : Prop := a.noise.shiftReg ≠ 0 ∧ 0 < a.noise.accCount ∧ a.dmc.deltaCounter ≤ 63

/-- The controller ports' invariant: the step counters are in 0..23 (R41). -/
abbrev Pads.Inv (p : Pads) : Prop := p.strobe1 < 24 ∧ p.strobe2 < 24

/-- The invariant of everything a bus access reaches. -/
abbrev Bus.Inv (b : Bus) : Prop := Memory.wf b.cfg b.mem ∧ b.ppu.Inv ∧ b.apu.Inv ∧ b.pads.Inv

/-- The invariant of the machine state that a snapshot holds. -/
abbrev Snapshot.Inv (cfg : Config) (p : Snapshot) : Prop :=
  Memory.wf cfg p.mem ∧ p.ppu.Inv ∧ p.apu.Inv ∧ p.pads.Inv

/-- A queued host call is harmless: a snapshot to be restored satisfies the invariant. -/
abbrev HostCall.Inv (cfg : Config) (c : HostCall) : Prop :=
  match c with
  | .restoreSnapshot p => p.Inv cfg
  | _ => True

/-- The invariant of the machine. -/
abbrev State.Inv (s : State) : Prop := s.toBus.Inv ∧ ∀ c ∈ s.hostCalls, c.Inv s.cfg

/-- An address of plain memory: not a port of R80's table. -/
abbrev plainAddr (a : Word) : Prop := isPort a = false

/-- No open mapper kind is in use: the cartridge's type is one that 47_mapper_cartridge.md specifies, or there is none. -/
abbrev Bus.closedMapper (b : Bus) : Prop := b.openKind = none

/-- Whether a store to `a` may change the backing byte `x` that `Bus.peek` reads there (20_memory.md rule R81): onboard RAM changes at
the mirrored address, PPU ports 0 and 1 keep the byte written to them (R93), plain storage changes at `a`, and a store into the program window
is a store for mapper type 0, no change of the window for type 3 (which switches pattern banks), and a switch of program banks otherwise. -/
def Bus.touches (b : Bus) (a : Word) (x : Nat) : Bool :=
  let x := if x < 0x2000 then x % 0x800 else x
  if a.toNat < 0x2000 then x == a.toNat % 0x800
  else if a.toNat < 0x4000 then decide (a.toNat % 8 < 2) && x == 0x2000 + a.toNat % 8
  else if a.toNat < 0x4018 then false
  else if a.toNat < 0x8000 then x == a.toNat
  else if b.cart.mapperType = 0 then x == a.toNat
  else if b.cart.mapperType = 3 then false
  else decide (0x8000 ≤ x)

/-! The shapes in which the statements speak of an instruction. -/

/-- The effective address of an instruction's operand (R126 to R138), the page crossing, and the machine after the pointer reads. -/
abbrev State.target (s : State) (m : Operand) : Resolved := (s.advance m.mode).resolve m

/-- The operand an instruction reads, the page crossing, and the machine after the read. -/
abbrev State.operand (s : State) (m : Operand) : OperandRead := (s.advance m.mode).readOperand m

/-- The address of the instruction after one of mode `m` (R122). -/
abbrev State.nextPC (s : State) (m : Mode) : Word := s.cpu.pc + BitVec.ofNat 16 m.length

/-- The cycles of a non-branch (R141). -/
abbrev cyclesOf (k : Kind) (m : Mode) (cross : Bool) : Nat := baseCycles k m + if pays k m && cross then 1 else 0

/-- `s` with other CPU registers, another bus and another cycle count: nothing else differs. -/
abbrev State.after (s : State) (cpu : Cpu) (bus : Bus) (cycles : Nat) : State :=
  { s with toBus := bus, cpu := cpu, stepCycles := cycles }

/-- The flags with `N` and `Z` of a result (R31), every other flag as it was. -/
abbrev Flags.withNZ (f : Flags) (v : Byte) : Flags := { f with n := v.getLsbD 7, z := decide (v.toNat = 0) }

/-- The 8-bit value of a natural number, `u8(t)`. -/
abbrev u8 (t : Nat) : Byte := BitVec.ofNat 8 t

/-- The number 1 of a set flag. -/
abbrev Flags.carry (f : Flags) : Nat := f.c.toNat

/-- `t` lies outside -128..127, the range of a signed byte. -/
abbrev signedOverflow (t : Int) : Bool := decide (¬(-128 ≤ t ∧ t ≤ 127))

/-- The flags that PLP and RTI load from a byte (R30): bits 0, 1, 2, 3, 4, 6 and 7. -/
abbrev flagsOfBits (p : Byte) : Flags where
  c := p.getLsbD 0
  z := p.getLsbD 1
  i := p.getLsbD 2
  d := p.getLsbD 3
  b := p.getLsbD 4
  v := p.getLsbD 6
  n := p.getLsbD 7

/-- The byte of the stack page that the stack pointer value `sp` names: `mem[0x0100 + SP]` (R86). -/
abbrev Bus.stackByte (b : Bus) (sp : Byte) : Byte := b.memAt (0x100 + sp.toNat)

/-- The bus after a byte is stored in the stack page at the stack pointer value `sp` (R86). -/
abbrev Bus.putStack (b : Bus) (sp v : Byte) : Bus := b.setMem (0x100 + sp.toNat) v

/-- The bus after a word is pushed from the stack pointer value `sp`, high byte first (R85, R86). -/
abbrev Bus.putStackWord (b : Bus) (sp : Byte) (w : Word) : Bus :=
  (b.putStack sp (hiByte w)).putStack (sp - 1) (loByte w)

/-- The bytes pushed in order. -/
def State.pushes (s : State) (vs : List Byte) : State := vs.foldl State.push s

/-- `n` pulls: the bytes in the order they are pulled, and the machine after them. -/
def State.pulls : Nat → State → List Byte × State
  | 0, s => ([], s)
  | n + 1, s => (s.pull.1 :: (State.pulls n s.pull.2).1, (State.pulls n s.pull.2).2)

/-! Which instructions write what: the table under rule R32, and the registers. -/

/-- The instruction's kind is one of these. -/
def kindIn (i : Instr) (ks : List Kind) : Bool := i.kind.any fun k => decide (k ∈ ks)

/-- The instructions that write `C` (R32). -/
def carryWriters : List Kind :=
  [.adc, .sbc, .cmp, .cpx, .cpy, .asl, .lsr, .rol, .ror, .clc, .sec, .plp, .rti, .alr, .anc, .arr, .axs, .dcp, .isc,
   .rla, .rra, .slo, .sre]

/-- The instructions that write `Z` and `N` (R32). -/
def zeroSignWriters : List Kind :=
  [.adc, .sbc, .and, .ora, .eor, .cmp, .cpx, .cpy, .bit, .asl, .lsr, .rol, .ror, .inc, .dec, .inx, .iny, .dex, .dey,
   .lda, .ldx, .ldy, .tax, .tay, .tsx, .txa, .tya, .pla, .plp, .rti] ++
  [.alr, .anc, .arr, .axs, .lax, .dcp, .isc, .rla, .rra, .slo, .sre]

/-- The instructions that write `I` (R32). -/
def interruptWriters : List Kind := [.sei, .cli, .brk, .plp, .rti]

/-- The instructions that write `D` (R32). -/
def decimalWriters : List Kind := [.sed, .cld, .plp, .rti]

/-- The instructions that write `B` (R32). -/
def breakWriters : List Kind := [.brk, .php, .plp, .rti]

/-- The instructions that write `V` (R32). -/
def overflowWriters : List Kind := [.adc, .sbc, .bit, .clv, .plp, .rti, .arr, .axs, .isc, .rra]

/-- The instructions that write `A` in every form; the accumulator forms of the four shifts write it too. -/
def accumulatorWriters : List Kind :=
  [.lda, .lax, .txa, .tya, .pla, .adc, .sbc, .and, .ora, .eor, .alr, .anc, .arr, .slo, .sre, .rla, .rra, .isc]

/-- The instructions that write `X`. -/
def xWriters : List Kind := [.ldx, .lax, .tax, .tsx, .inx, .dex, .axs]

/-- The instructions that write `Y`. -/
def yWriters : List Kind := [.ldy, .tay, .iny, .dey]

/-- The instructions that write `SP`. -/
def stackPointerWriters : List Kind := [.txs, .pha, .php, .pla, .plp, .jsr, .rts, .brk, .rti]

/-- The instructions that store one byte at their effective address, unless the operand is the accumulator. -/
def operandStores : List Kind :=
  [.sta, .stx, .sty, .sax, .asl, .lsr, .rol, .ror, .inc, .dec, .slo, .sre, .rla, .rra, .dcp, .isc]

/-- The instructions that push. -/
def pushers : List Kind := [.pha, .php, .jsr, .brk]

/-- The number of bytes an instruction pushes. -/
def pushedBytes (i : Instr) : Nat :=
  if kindIn i [.pha, .php] then 1 else if kindIn i [.jsr] then 2 else if kindIn i [.brk] then 3 else 0

/-! The opcode table as R146 lists it, kind by kind. -/

/-- The opcodes of a kind, each with its mode, its length and its base cycle count (30_encoding.md rule R146). -/
def tableRows : Kind → List (Byte × Mode × Nat × Nat)
  | .adc =>
    [(0x69, .imm, 2, 2), (0x65, .zp, 2, 3), (0x75, .zpx, 2, 4), (0x6D, .abs, 3, 4),
      (0x7D, .absx, 3, 4), (0x79, .absy, 3, 4), (0x61, .indx, 2, 6), (0x71, .indy, 2, 5)]
  | .and =>
    [(0x29, .imm, 2, 2), (0x25, .zp, 2, 3), (0x35, .zpx, 2, 4), (0x2D, .abs, 3, 4),
      (0x3D, .absx, 3, 4), (0x39, .absy, 3, 4), (0x21, .indx, 2, 6), (0x31, .indy, 2, 5)]
  | .asl => [(0x0A, .acc, 1, 2), (0x06, .zp, 2, 5), (0x16, .zpx, 2, 6), (0x0E, .abs, 3, 6), (0x1E, .absx, 3, 7)]
  | .bcc => [(0x90, .rel, 2, 2)]
  | .bcs => [(0xB0, .rel, 2, 2)]
  | .beq => [(0xF0, .rel, 2, 2)]
  | .bit => [(0x24, .zp, 2, 3), (0x2C, .abs, 3, 4)]
  | .bmi => [(0x30, .rel, 2, 2)]
  | .bne => [(0xD0, .rel, 2, 2)]
  | .bpl => [(0x10, .rel, 2, 2)]
  | .brk => [(0x00, .imp, 1, 7)]
  | .bvc => [(0x50, .rel, 2, 2)]
  | .bvs => [(0x70, .rel, 2, 2)]
  | .clc => [(0x18, .imp, 1, 2)]
  | .cld => [(0xD8, .imp, 1, 2)]
  | .cli => [(0x58, .imp, 1, 2)]
  | .clv => [(0xB8, .imp, 1, 2)]
  | .cmp =>
    [(0xC9, .imm, 2, 2), (0xC5, .zp, 2, 3), (0xD5, .zpx, 2, 4), (0xCD, .abs, 3, 4),
      (0xDD, .absx, 3, 4), (0xD9, .absy, 3, 4), (0xC1, .indx, 2, 6), (0xD1, .indy, 2, 5)]
  | .cpx => [(0xE0, .imm, 2, 2), (0xE4, .zp, 2, 3), (0xEC, .abs, 3, 4)]
  | .cpy => [(0xC0, .imm, 2, 2), (0xC4, .zp, 2, 3), (0xCC, .abs, 3, 4)]
  | .dec => [(0xC6, .zp, 2, 5), (0xD6, .zpx, 2, 6), (0xCE, .abs, 3, 6), (0xDE, .absx, 3, 7)]
  | .dex => [(0xCA, .imp, 1, 2)]
  | .dey => [(0x88, .imp, 1, 2)]
  | .eor =>
    [(0x49, .imm, 2, 2), (0x45, .zp, 2, 3), (0x55, .zpx, 2, 4), (0x4D, .abs, 3, 4),
      (0x5D, .absx, 3, 4), (0x59, .absy, 3, 4), (0x41, .indx, 2, 6), (0x51, .indy, 2, 5)]
  | .inc => [(0xE6, .zp, 2, 5), (0xF6, .zpx, 2, 6), (0xEE, .abs, 3, 6), (0xFE, .absx, 3, 7)]
  | .inx => [(0xE8, .imp, 1, 2)]
  | .iny => [(0xC8, .imp, 1, 2)]
  | .jmp => [(0x4C, .abs, 3, 3), (0x6C, .ind, 3, 5)]
  | .jsr => [(0x20, .abs, 3, 6)]
  | .lda =>
    [(0xA9, .imm, 2, 2), (0xA5, .zp, 2, 3), (0xB5, .zpx, 2, 4), (0xAD, .abs, 3, 4),
      (0xBD, .absx, 3, 4), (0xB9, .absy, 3, 4), (0xA1, .indx, 2, 6), (0xB1, .indy, 2, 5)]
  | .ldx => [(0xA2, .imm, 2, 2), (0xA6, .zp, 2, 3), (0xB6, .zpy, 2, 4), (0xAE, .abs, 3, 4), (0xBE, .absy, 3, 4)]
  | .ldy => [(0xA0, .imm, 2, 2), (0xA4, .zp, 2, 3), (0xB4, .zpx, 2, 4), (0xAC, .abs, 3, 4), (0xBC, .absx, 3, 4)]
  | .lsr => [(0x4A, .acc, 1, 2), (0x46, .zp, 2, 5), (0x56, .zpx, 2, 6), (0x4E, .abs, 3, 6), (0x5E, .absx, 3, 7)]
  | .nop =>
    [(0x1A, .imp, 1, 2), (0x3A, .imp, 1, 2), (0x5A, .imp, 1, 2), (0x7A, .imp, 1, 2),
      (0xDA, .imp, 1, 2), (0xEA, .imp, 1, 2), (0xFA, .imp, 1, 2)]
  | .ora =>
    [(0x09, .imm, 2, 2), (0x05, .zp, 2, 3), (0x15, .zpx, 2, 4), (0x0D, .abs, 3, 4),
      (0x1D, .absx, 3, 4), (0x19, .absy, 3, 4), (0x01, .indx, 2, 6), (0x11, .indy, 2, 5)]
  | .pha => [(0x48, .imp, 1, 3)]
  | .php => [(0x08, .imp, 1, 3)]
  | .pla => [(0x68, .imp, 1, 4)]
  | .plp => [(0x28, .imp, 1, 4)]
  | .rol => [(0x2A, .acc, 1, 2), (0x26, .zp, 2, 5), (0x36, .zpx, 2, 6), (0x2E, .abs, 3, 6), (0x3E, .absx, 3, 7)]
  | .ror => [(0x6A, .acc, 1, 2), (0x66, .zp, 2, 5), (0x76, .zpx, 2, 6), (0x6E, .abs, 3, 6), (0x7E, .absx, 3, 7)]
  | .rti => [(0x40, .imp, 1, 6)]
  | .rts => [(0x60, .imp, 1, 6)]
  | .sbc =>
    [(0xE9, .imm, 2, 2), (0xE5, .zp, 2, 3), (0xF5, .zpx, 2, 4), (0xED, .abs, 3, 4),
      (0xFD, .absx, 3, 4), (0xF9, .absy, 3, 4), (0xE1, .indx, 2, 6), (0xF1, .indy, 2, 5)]
  | .sec => [(0x38, .imp, 1, 2)]
  | .sed => [(0xF8, .imp, 1, 2)]
  | .sei => [(0x78, .imp, 1, 2)]
  | .sta =>
    [(0x85, .zp, 2, 3), (0x95, .zpx, 2, 4), (0x8D, .abs, 3, 4), (0x9D, .absx, 3, 5),
      (0x99, .absy, 3, 5), (0x81, .indx, 2, 6), (0x91, .indy, 2, 6)]
  | .stx => [(0x86, .zp, 2, 3), (0x96, .zpy, 2, 4), (0x8E, .abs, 3, 4)]
  | .sty => [(0x84, .zp, 2, 3), (0x94, .zpx, 2, 4), (0x8C, .abs, 3, 4)]
  | .tax => [(0xAA, .imp, 1, 2)]
  | .tay => [(0xA8, .imp, 1, 2)]
  | .tsx => [(0xBA, .imp, 1, 2)]
  | .txa => [(0x8A, .imp, 1, 2)]
  | .txs => [(0x9A, .imp, 1, 2)]
  | .tya => [(0x98, .imp, 1, 2)]
  | .alr => [(0x4B, .imm, 2, 2)]
  | .anc => [(0x0B, .imm, 2, 2), (0x2B, .imm, 2, 2)]
  | .arr => [(0x6B, .imm, 2, 2)]
  | .axs => [(0xCB, .imm, 2, 2)]
  | .lax =>
    [(0xA3, .indx, 2, 6), (0xA7, .zp, 2, 3), (0xAF, .abs, 3, 4),
      (0xB3, .indy, 2, 5), (0xB7, .zpy, 2, 4), (0xBF, .absy, 3, 4)]
  | .sax => [(0x83, .indx, 2, 6), (0x87, .zp, 2, 3), (0x8F, .abs, 3, 4), (0x97, .zpy, 2, 4)]
  | .dcp =>
    [(0xC3, .indx, 2, 8), (0xC7, .zp, 2, 5), (0xCF, .abs, 3, 6), (0xD3, .indy, 2, 8),
      (0xD7, .zpx, 2, 6), (0xDB, .absy, 3, 7), (0xDF, .absx, 3, 7)]
  | .isc =>
    [(0xE3, .indx, 2, 8), (0xE7, .zp, 2, 5), (0xEF, .abs, 3, 6), (0xF3, .indy, 2, 8),
      (0xF7, .zpx, 2, 6), (0xFB, .absy, 3, 7), (0xFF, .absx, 3, 7)]
  | .rla =>
    [(0x23, .indx, 2, 8), (0x27, .zp, 2, 5), (0x2F, .abs, 3, 6), (0x33, .indy, 2, 8),
      (0x37, .zpx, 2, 6), (0x3B, .absy, 3, 7), (0x3F, .absx, 3, 7)]
  | .rra =>
    [(0x63, .indx, 2, 8), (0x67, .zp, 2, 5), (0x6F, .abs, 3, 6), (0x73, .indy, 2, 8),
      (0x77, .zpx, 2, 6), (0x7B, .absy, 3, 7), (0x7F, .absx, 3, 7)]
  | .slo =>
    [(0x03, .indx, 2, 8), (0x07, .zp, 2, 5), (0x0F, .abs, 3, 6), (0x13, .indy, 2, 8),
      (0x17, .zpx, 2, 6), (0x1B, .absy, 3, 7), (0x1F, .absx, 3, 7)]
  | .sre =>
    [(0x43, .indx, 2, 8), (0x47, .zp, 2, 5), (0x4F, .abs, 3, 6), (0x53, .indy, 2, 8),
      (0x57, .zpx, 2, 6), (0x5B, .absy, 3, 7), (0x5F, .absx, 3, 7)]
  | .skb => [(0x80, .imm, 2, 2), (0x82, .imm, 2, 2), (0x89, .imm, 2, 2), (0xC2, .imm, 2, 2), (0xE2, .imm, 2, 2)]
  | .ign =>
    [(0x0C, .abs, 3, 4), (0x1C, .absx, 3, 4), (0x3C, .absx, 3, 4), (0x5C, .absx, 3, 4), (0x7C, .absx, 3, 4), (0xDC, .absx, 3, 4), (0xFC, .absx, 3, 4), (0x04, .zp, 2, 3),
      (0x44, .zp, 2, 3), (0x64, .zp, 2, 3), (0x14, .zpx, 2, 4), (0x34, .zpx, 2, 4), (0x54, .zpx, 2, 4), (0x74, .zpx, 2, 4), (0xD4, .zpx, 2, 4), (0xF4, .zpx, 2, 4)]

/-- The CPU runs in this step: a frame is in progress, the CPU is neither `Halted` nor idled, and the configuration is one a machine is
built with. -/
abbrev State.cpuRuns (s : State) : Prop :=
  s.cfg.ok = true ∧ s.inFrame = true ∧ s.halted = false ∧ s.haltCycles = 0

end Sys2Proof.Machine
end

