-- ==== Sys2Proof/Certificates/Slice0/Obligations.lean ====
section
/-!
DEFINITION. The statements for the provers. Each docstring names the rules of the spec it states. An instruction's result is stated as the whole
next state (`State.after`: the machine with the CPU registers, the bus and the cycle count given, nothing else changed), so that it is the
instruction's completion and its frame as well. The operand, its address and the bus after reading it are `State.operand` and `State.target`.
Most rules that give an instruction its body carry the spec's own mark "[from general knowledge, not in source]" or "[decision ...]"; a statement that
rests on such a rule has basis `derived` in OBLIGATIONS.json, and the rules named in its docstring say where to read it in the spec.
-/

open Sys2Proof Sys2Proof.Machine

/-! Encoding. -/

/-- Decoding the encoding of a well-formed instruction gives it back, with every operand at every value, and leaves the bytes after it
(R120, R124, R143). -/
def Obligations.DecodeEncode : Prop :=
  ∀ (i : Instr) (rest : List Byte), WellFormed i = true → decode (encode i ++ rest) = .ok (i, rest)

/-- Whatever decodes is a well-formed instruction, and the bytes consumed are its encoding: no two byte strings decode to one instruction, and no
opcode byte falls through to a neighbour (R120, R124, R143, R144). -/
def Obligations.EncodeDecode : Prop :=
  ∀ (bytes rest : List Byte) (i : Instr), decode bytes = .ok (i, rest) →
    WellFormed i = true ∧ bytes = encode i ++ rest

/-- Words written out from the spec's Encodings lines decode to the instruction they stand for, one or more of every family (a sanity statement). -/
def Obligations.DecodeWords : Prop :=
  decode [0xA9, 0x80] = .ok (.lda (.imm 0x80), []) ∧
  decode [0x8D, 0x00, 0x03] = .ok (.sta (.abs 0x0300), []) ∧
  decode [0xBA] = .ok (.tsx, []) ∧
  decode [0x71, 0x44] = .ok (.adc (.indy 0x44), []) ∧
  decode [0xCB, 0x10] = .ok (.axs 0x10, []) ∧
  decode [0x7E, 0x34, 0x12] = .ok (.ror (.absx 0x1234), []) ∧
  decode [0xC3, 0x10] = .ok (.dcp (.indx 0x10), []) ∧
  decode [0x6C, 0xFF, 0x02] = .ok (.jmp (.ind 0x02FF), []) ∧
  decode [0x90, 0x20] = .ok (.bcc 0x20, []) ∧
  decode [0x00] = .ok (.brk, []) ∧
  decode [0x28] = .ok (.plp, []) ∧
  decode [0x80, 0xFF] = .ok (.skb 0x80 0xFF, []) ∧
  decode [0x0C, 0x02, 0x20] = .ok (.ign 0x0C (.abs 0x2002), []) ∧
  decode [0x02] = .ok (.unfilled 0x02, [])

/-- The 21 unfilled slots are exactly the listed opcodes (R144); every filled slot has the kind, mode, length and base count of its entry in R146's
table, and no other slot has them (`tableRows` is that table, written out kind by kind); the length is the mode's (R125); `baseCycles`, from which the other
statements take their counts, gives a kind and mode the count of the table; the page-crossing penalty is paid in the cases of R140's table and in no other. -/
def Obligations.OpcodeTable : Prop :=
  (∀ op : Byte, opdata op = none ↔
    op ∈ [0x02, 0x12, 0x22, 0x32, 0x42, 0x52, 0x62, 0x72, 0x92, 0xB2, 0xD2, 0xF2, 0x8B, 0x93, 0x9B, 0x9C, 0x9E, 0x9F,
      0xAB, 0xBB, (0xEB : Byte)]) ∧
  (∀ (op : Byte) (d : Descriptor), opdata op = some d ↔ (op, d.mode, d.length, d.cycles) ∈ tableRows d.kind) ∧
  (∀ k : Kind, ∀ r ∈ tableRows k, r.2.2.1 = r.2.1.length ∧ baseCycles k r.2.1 = r.2.2.2 ∧ 2 ≤ r.2.2.2 ∧ r.2.2.2 ≤ 8) ∧
  ∀ (k : Kind) (m : Mode), pays k m = true ↔
    k ∈ [Kind.adc, .cmp, .eor, .lda, .ldx, .ldy, .lax] ∨
      (k ∈ [Kind.and, .ora, .sbc, .dcp, .isc, .rla, .rra, .slo, .sre, .ign] ∧ m ≠ .indy)

/-! Addressing modes. `s` is the machine with `PC` already advanced. -/

/-- Zero-page, relative, absolute and zero-page-indexed addresses: zero-page sums wrap mod 256, a branch target is the next instruction's address plus the
signed displacement mod 65536; nothing is read and no page is crossed (R126, R127, R129, R132, R133). -/
def Obligations.DirectModes : Prop :=
  ∀ (s : State) (op1 : Byte) (op16 : Word),
    ((s.resolve (.zp op1)).ea.toNat = op1.toNat ∧ (s.resolve (.zp op1)).cross = false ∧
      (s.resolve (.zp op1)).state = s) ∧
    (((s.resolve (.rel op1)).ea.toNat : Int) = ((s.cpu.pc.toNat : Int) + op1.toInt) % 65536 ∧
      (s.resolve (.rel op1)).state = s) ∧
    ((s.resolve (.abs op16)).ea = op16 ∧ (s.resolve (.abs op16)).cross = false ∧ (s.resolve (.abs op16)).state = s) ∧
    ((s.resolve (.zpx op1)).ea.toNat = (op1.toNat + s.cpu.x.toNat) % 256 ∧ (s.resolve (.zpx op1)).cross = false ∧
      (s.resolve (.zpx op1)).state = s) ∧
    ((s.resolve (.zpy op1)).ea.toNat = (op1.toNat + s.cpu.y.toNat) % 256 ∧ (s.resolve (.zpy op1)).cross = false ∧
      (s.resolve (.zpy op1)).state = s)

/-- Absolute-indexed addresses wrap mod 65536, a page is crossed exactly when the page of the sum differs from the base's, and an LDA then takes one extra
cycle (R134, R135). -/
def Obligations.IndexedModes : Prop :=
  ∀ (s : State) (base : Word) (index : Byte) (m : Operand),
    (m = .absx base ∧ index = s.cpu.x) ∨ (m = .absy base ∧ index = s.cpu.y) →
    let r := s.resolve m
    let crossed := base.toNat / 256 ≠ (base.toNat + index.toNat) % 65536 / 256
    r.ea.toNat = (base.toNat + index.toNat) % 65536 ∧ (r.cross = true ↔ crossed) ∧ r.state = s ∧
      ∃ t, exec (.lda m) s = .next t ∧ t.stepCycles = if crossed then 5 else 4

/-- The two indirect modes read a pointer of the zero page without wrapping its high byte's address (from 0x00FF it is 0x0100), change nothing by
it, and set the page crossing as the spec says (R136 with decision D16, R137; decision D5). -/
def Obligations.IndirectModes : Prop :=
  ∀ (s : State) (op1 : Byte),
    ((s.resolve (.indx op1)).ea = wordOf (s.memAt ((op1.toNat + s.cpu.x.toNat) % 256))
        (s.memAt ((op1.toNat + s.cpu.x.toNat) % 256 + 1)) ∧
      ((s.resolve (.indx op1)).cross = true ↔ 256 ≤ op1.toNat + s.cpu.x.toNat) ∧
      (s.resolve (.indx op1)).state = s) ∧
    ((s.resolve (.indy op1)).ea.toNat =
        ((s.memAt op1.toNat).toNat + 256 * (s.memAt (op1.toNat + 1)).toNat + s.cpu.y.toNat) % 65536 ∧
      ((s.resolve (.indy op1)).cross = true ↔ 256 ≤ (s.memAt op1.toNat).toNat + s.cpu.y.toNat) ∧
      (s.resolve (.indy op1)).state = s)

/-! Loads, stores and transfers. -/

/-- LDA, LDX, LDY and LAX load the operand read once and write `N` and `Z` from it (R160 to R163, R173). The operand, here and in every statement that
speaks of `State.operand`, is the instruction's own byte in immediate mode, with no further bus access (R131; that it is not read twice is log entry 11), `A`
in accumulator mode (R130), and otherwise what exactly one bus read at the effective address returns (R89, R160). -/
def Obligations.Loads : Prop :=
  ∀ (m : Operand) (s : State),
    let r := s.operand m
    let f := s.cpu.flags.withNZ r.value
    (∀ v : Byte, m = .imm v → r.value = v ∧ r.cross = false ∧ r.state = s.advance .imm) ∧
    (m = .acc → r.value = s.cpu.a ∧ r.cross = false ∧ r.state = s.advance .acc) ∧
    (m.mode ≠ .imm → m ≠ .acc →
      let t := s.target m
      r.value = (t.state.toBus.read t.ea).1 ∧ r.cross = t.cross ∧
      r.state = { t.state with toBus := (t.state.toBus.read t.ea).2 }) ∧
    exec (.lda m) s = .next (s.after { s.cpu with pc := s.nextPC m.mode, a := r.value, flags := f }
      r.state.toBus (cyclesOf .lda m.mode r.cross)) ∧
    exec (.ldx m) s = .next (s.after { s.cpu with pc := s.nextPC m.mode, x := r.value, flags := f }
      r.state.toBus (cyclesOf .ldx m.mode r.cross)) ∧
    exec (.ldy m) s = .next (s.after { s.cpu with pc := s.nextPC m.mode, y := r.value, flags := f }
      r.state.toBus (cyclesOf .ldy m.mode r.cross)) ∧
    exec (.lax m) s = .next (s.after { s.cpu with pc := s.nextPC m.mode, a := r.value, x := r.value, flags := f }
      r.state.toBus (cyclesOf .lax m.mode r.cross))

/-- STA, STX, STY and SAX make one write of their register (`A AND X` for SAX) at the effective address, read nothing there, write no flag, and
never pay for a page crossing (R160, R164 to R166, R174). -/
def Obligations.Stores : Prop :=
  ∀ (m : Operand) (s : State),
    let r := s.target m
    let c := { s.cpu with pc := s.nextPC m.mode }
    exec (.sta m) s = .next (s.after c (r.state.toBus.write r.ea s.cpu.a) (baseCycles .sta m.mode)) ∧
    exec (.stx m) s = .next (s.after c (r.state.toBus.write r.ea s.cpu.x) (baseCycles .stx m.mode)) ∧
    exec (.sty m) s = .next (s.after c (r.state.toBus.write r.ea s.cpu.y) (baseCycles .sty m.mode)) ∧
    exec (.sax m) s = .next (s.after c (r.state.toBus.write r.ea (s.cpu.a &&& s.cpu.x)) (baseCycles .sax m.mode))

/-- The six register transfers: `N` and `Z` from the value moved, no flag for TXS, no bus access, 2 cycles (R167 to R172). -/
def Obligations.Transfers : Prop :=
  ∀ s : State,
    let c := { s.cpu with pc := s.cpu.pc + 1 }
    let f := s.cpu.flags.withNZ
    exec .tax s = .next (s.after { c with x := s.cpu.a, flags := f s.cpu.a } s.toBus 2) ∧
    exec .tay s = .next (s.after { c with y := s.cpu.a, flags := f s.cpu.a } s.toBus 2) ∧
    exec .tsx s = .next (s.after { c with x := s.cpu.sp, flags := f s.cpu.sp } s.toBus 2) ∧
    exec .txa s = .next (s.after { c with a := s.cpu.x, flags := f s.cpu.x } s.toBus 2) ∧
    exec .txs s = .next (s.after { c with sp := s.cpu.x } s.toBus 2) ∧
    exec .tya s = .next (s.after { c with a := s.cpu.y, flags := f s.cpu.y } s.toBus 2)

/-! Arithmetic and logic. -/

/-- ADC: `A + M + C` reduced to 8 bits, `C` the carry out, `V` exactly when the signed sum lies outside -128..127, `N` and `Z` from the result; `D` is
not read (R191, R205). -/
def Obligations.AdcSignedOverflow : Prop :=
  ∀ (m : Operand) (s : State),
    let r := s.operand m
    let t := s.cpu.a.toNat + r.value.toNat + s.cpu.flags.carry
    let v := signedOverflow (s.cpu.a.toInt + r.value.toInt + s.cpu.flags.carry)
    exec (.adc m) s = .next (s.after
      { s.cpu with pc := s.nextPC m.mode, a := u8 t
                   flags := { s.cpu.flags with c := decide (255 < t), v := v }.withNZ (u8 t) }
      r.state.toBus (cyclesOf .adc m.mode r.cross))

/-- SBC: `A - M - (1 - C)` reduced to 8 bits, `C` is not-borrow, `V` exactly when the signed difference lies outside -128..127, `N` and `Z` from the
result; `D` is not read (R192, R205). -/
def Obligations.SbcSignedOverflow : Prop :=
  ∀ (m : Operand) (s : State),
    let r := s.operand m
    let t : Int := s.cpu.a.toNat - r.value.toNat - (1 - s.cpu.flags.carry)
    let v := signedOverflow (s.cpu.a.toInt - r.value.toInt - (1 - s.cpu.flags.carry))
    exec (.sbc m) s = .next (s.after
      { s.cpu with pc := s.nextPC m.mode, a := BitVec.ofInt 8 t
                   flags := { s.cpu.flags with c := decide (0 ≤ t), v := v }.withNZ (BitVec.ofInt 8 t) }
      r.state.toBus (cyclesOf .sbc m.mode r.cross))

/-- SBC of a byte leaves exactly what ADC of its one's complement leaves (R192). -/
def Obligations.SbcIsAdcOfComplement : Prop :=
  ∀ (v : Byte) (s : State), exec (.sbc (.imm v)) s = exec (.adc (.imm (v ^^^ 0xFF))) s

/-- AND, ORA and EOR: `A` and the operand combined, `N` and `Z` from the result, every other flag kept (R193 to R195). -/
def Obligations.Logic : Prop :=
  ∀ (m : Operand) (s : State),
    let r := s.operand m
    let put := fun v : Byte => { s.cpu with pc := s.nextPC m.mode, a := v, flags := s.cpu.flags.withNZ v }
    exec (.and m) s = .next (s.after (put (s.cpu.a &&& r.value)) r.state.toBus (cyclesOf .and m.mode r.cross)) ∧
    exec (.ora m) s = .next (s.after (put (s.cpu.a ||| r.value)) r.state.toBus (cyclesOf .ora m.mode r.cross)) ∧
    exec (.eor m) s = .next (s.after (put (s.cpu.a ^^^ r.value)) r.state.toBus (cyclesOf .eor m.mode r.cross))

/-- CMP, CPX and CPY write no register and not `V`: `C` exactly when the register is at least the operand, `Z` exactly when they are equal, `N` bit 7 of
the 8-bit difference (R196 to R198). BIT: `N` and `V` are bits 7 and 6 of the memory byte, `Z` says whether `A AND M` is 0; `A` and `C` are kept (R199). -/
def Obligations.ComparesAndBit : Prop :=
  ∀ (m : Operand) (s : State),
    let r := s.operand m
    let put := fun q : Byte =>
      { s.cpu with pc := s.nextPC m.mode
                   flags := { s.cpu.flags with c := decide (r.value.toNat ≤ q.toNat), z := decide (q = r.value)
                                               n := (q - r.value).getLsbD 7 } }
    exec (.cmp m) s = .next (s.after (put s.cpu.a) r.state.toBus (cyclesOf .cmp m.mode r.cross)) ∧
    exec (.cpx m) s = .next (s.after (put s.cpu.x) r.state.toBus (baseCycles .cpx m.mode)) ∧
    exec (.cpy m) s = .next (s.after (put s.cpu.y) r.state.toBus (baseCycles .cpy m.mode)) ∧
    exec (.bit m) s = .next (s.after
      { s.cpu with pc := s.nextPC m.mode
                   flags := { s.cpu.flags with n := r.value.getLsbD 7, v := r.value.getLsbD 6
                                               z := decide (s.cpu.a &&& r.value = 0) } }
      r.state.toBus (baseCycles .bit m.mode))

/-- ALR, ANC (both opcodes) and ARR on their immediate byte, 2 cycles (R200 to R202). AXS: `X` takes `(A AND X) - M`, `C` is not-borrow, `A` is kept; `V` is
written by the old `X`'s sign test only under `AXS_WRITES_V` (R203, decision D17). -/
def Obligations.ImmediateCombinations : Prop :=
  ∀ (op v : Byte) (s : State),
    let t := s.cpu.a &&& v
    let half := t.toNat / 2
    let turned := u8 (half + 128 * s.cpu.flags.carry)
    let d := (s.cpu.a &&& s.cpu.x) - v
    let sign := (s.cpu.x ^^^ d).getLsbD 7 && (s.cpu.x ^^^ v).getLsbD 7
    let c := { s.cpu with pc := s.cpu.pc + 2 }
    exec (.alr v) s = .next (s.after
      { c with a := u8 half, flags := { s.cpu.flags with c := t.getLsbD 0 }.withNZ (u8 half) } s.toBus 2) ∧
    exec (.anc op v) s = .next (s.after
      { c with a := t, flags := { s.cpu.flags with c := t.getLsbD 7 }.withNZ t } s.toBus 2) ∧
    exec (.arr v) s = .next (s.after
      { c with a := turned
               flags := { s.cpu.flags with c := t.getLsbD 7, v := t.getLsbD 7 ^^ t.getLsbD 6 }.withNZ turned }
      s.toBus 2) ∧
    exec (.axs v) s = .next (s.after
      { c with x := d
               flags := { s.cpu.flags with
                 c := decide (v.toNat ≤ (s.cpu.a &&& s.cpu.x).toNat)
                 v := if s.cfg.axsWritesV then sign else s.cpu.flags.v }.withNZ d }
      s.toBus 2)

/-! Shifts, increments and the read-modify-write combinations. -/

/-- The accumulator forms of ASL, LSR, ROL and ROR: one bit position, the bit shifted out into `C`, the old `C` into the free bit of a rotate; no bus
access, 2 cycles (R221 to R224, R237). -/
def Obligations.AccumulatorShifts : Prop :=
  ∀ s : State,
    let a := s.cpu.a.toNat
    let put := fun (v : Byte) (c : Bool) => s.after
      { s.cpu with pc := s.cpu.pc + 1, a := v, flags := { s.cpu.flags with c := c }.withNZ v } s.toBus 2
    exec (.asl .acc) s = .next (put (u8 (2 * a)) (decide (128 ≤ a))) ∧
    exec (.lsr .acc) s = .next (put (u8 (a / 2)) (decide (a % 2 = 1))) ∧
    exec (.rol .acc) s = .next (put (u8 (2 * a + s.cpu.flags.carry)) (decide (128 ≤ a))) ∧
    exec (.ror .acc) s = .next (put (u8 (a / 2 + 128 * s.cpu.flags.carry)) (decide (a % 2 = 1)))

/-- The memory forms of ASL, LSR, ROL, ROR, INC and DEC: one read, then one write of the result at the same address; INC and DEC write neither `C` nor
`V`; no page crossing is paid (R220 to R226). -/
def Obligations.MemoryShifts : Prop :=
  ∀ (m : Operand) (s : State), m ≠ .acc →
    let r := s.target m
    let q := r.state.read r.ea
    let n := q.1.toNat
    let put := fun (k : Kind) (v : Byte) (c : Bool) => s.after
      { s.cpu with pc := s.nextPC m.mode, flags := { s.cpu.flags with c := c }.withNZ v }
      (q.2.toBus.write r.ea v) (baseCycles k m.mode)
    exec (.asl m) s = .next (put .asl (u8 (2 * n)) (decide (128 ≤ n))) ∧
    exec (.lsr m) s = .next (put .lsr (u8 (n / 2)) (decide (n % 2 = 1))) ∧
    exec (.rol m) s = .next (put .rol (u8 (2 * n + s.cpu.flags.carry)) (decide (128 ≤ n))) ∧
    exec (.ror m) s = .next (put .ror (u8 (n / 2 + 128 * s.cpu.flags.carry)) (decide (n % 2 = 1))) ∧
    exec (.inc m) s = .next (put .inc (u8 (n + 1)) s.cpu.flags.c) ∧
    exec (.dec m) s = .next (put .dec (u8 (n + 255)) s.cpu.flags.c)

/-- INX, INY, DEX and DEY wrap mod 256 and write `N` and `Z` alone, 2 cycles (R227 to R230). -/
def Obligations.IndexSteps : Prop :=
  ∀ s : State,
    let c := { s.cpu with pc := s.cpu.pc + 1 }
    let f := s.cpu.flags.withNZ
    let x := s.cpu.x.toNat
    let y := s.cpu.y.toNat
    exec .inx s = .next (s.after { c with x := u8 (x + 1), flags := f (u8 (x + 1)) } s.toBus 2) ∧
    exec .iny s = .next (s.after { c with y := u8 (y + 1), flags := f (u8 (y + 1)) } s.toBus 2) ∧
    exec .dex s = .next (s.after { c with x := u8 (x + 255), flags := f (u8 (x + 255)) } s.toBus 2) ∧
    exec .dey s = .next (s.after { c with y := u8 (y + 255), flags := f (u8 (y + 255)) } s.toBus 2)

/-- SLO, SRE and RLA: the shifted byte is written back, then combined into `A`; `C` from the shift, `N` and `Z` from the final `A`, `V` kept
(R220, R231 to R233). -/
def Obligations.ShiftLogicCombinations : Prop :=
  ∀ (m : Operand) (s : State), m ≠ .acc →
    let r := s.target m
    let q := r.state.read r.ea
    let n := q.1.toNat
    let put := fun (k : Kind) (v a : Byte) (c : Bool) => s.after
      { s.cpu with pc := s.nextPC m.mode, a := a, flags := { s.cpu.flags with c := c }.withNZ a }
      (q.2.toBus.write r.ea v) (cyclesOf k m.mode r.cross)
    let left := u8 (2 * n)
    let right := u8 (n / 2)
    let turned := u8 (2 * n + s.cpu.flags.carry)
    exec (.slo m) s = .next (put .slo left (s.cpu.a ||| left) (decide (128 ≤ n))) ∧
    exec (.sre m) s = .next (put .sre right (s.cpu.a ^^^ right) (decide (n % 2 = 1))) ∧
    exec (.rla m) s = .next (put .rla turned (s.cpu.a &&& turned) (decide (128 ≤ n)))

/-- RRA adds the rotated byte with the carry the rotate produced; DCP compares with the decremented byte; ISC subtracts the incremented byte with the
incoming carry; each byte is written back first (R220, R234 to R236). -/
def Obligations.ArithmeticCombinations : Prop :=
  ∀ (m : Operand) (s : State), m ≠ .acc →
    let r := s.target m
    let q := r.state.read r.ea
    let n := q.1.toNat
    let put := fun (k : Kind) (v a : Byte) (f : Flags) => s.after
      { s.cpu with pc := s.nextPC m.mode, a := a, flags := f } (q.2.toBus.write r.ea v) (cyclesOf k m.mode r.cross)
    let turned := u8 (n / 2 + 128 * s.cpu.flags.carry)
    let sum := s.cpu.a.toNat + turned.toNat + n % 2
    let down := u8 (n + 255)
    let up := u8 (n + 1)
    let diff : Int := s.cpu.a.toNat - up.toNat - (1 - s.cpu.flags.carry)
    exec (.rra m) s = .next (put .rra turned (u8 sum)
      ({ s.cpu.flags with c := decide (255 < sum)
                          v := signedOverflow (s.cpu.a.toInt + turned.toInt + (n % 2 : Nat)) }.withNZ (u8 sum))) ∧
    exec (.dcp m) s = .next (put .dcp down s.cpu.a
      { s.cpu.flags with c := decide (down.toNat ≤ s.cpu.a.toNat), z := decide (s.cpu.a = down)
                         n := (s.cpu.a - down).getLsbD 7 }) ∧
    exec (.isc m) s = .next (put .isc up (BitVec.ofInt 8 diff)
      ({ s.cpu.flags with c := decide (0 ≤ diff)
                          v := signedOverflow (s.cpu.a.toInt - up.toInt - (1 - s.cpu.flags.carry)) }.withNZ
        (BitVec.ofInt 8 diff)))

/-! Control flow. -/

/-- The eight branches: `PC` becomes the target or stays at the next instruction; 2 cycles not taken, 3 taken within the page of the next instruction,
4 across pages; no flag and no memory byte changes (R250 to R258, R142). -/
def Obligations.Branches : Prop :=
  ∀ (d : Byte) (s : State),
    let next := s.cpu.pc + 2
    let target := next + d.signExtend 16
    let go := fun cond : Bool => s.after { s.cpu with pc := if cond then target else next } s.toBus
      (if cond then (if next.toNat / 256 = target.toNat / 256 then 3 else 4) else 2)
    let f := s.cpu.flags
    exec (.bcc d) s = .next (go (!f.c)) ∧ exec (.bcs d) s = .next (go f.c) ∧
    exec (.bne d) s = .next (go (!f.z)) ∧ exec (.beq d) s = .next (go f.z) ∧
    exec (.bpl d) s = .next (go (!f.n)) ∧ exec (.bmi d) s = .next (go f.n) ∧
    exec (.bvc d) s = .next (go (!f.v)) ∧ exec (.bvs d) s = .next (go f.v)

/-- JMP: `PC` becomes the effective address, nothing is pushed and no flag written; 3 cycles absolute, 5 indirect, where the word is read through the
pointer with the high byte's address wrapping within the pointer's page (R259, R138 with decision D19). -/
def Obligations.Jump : Prop :=
  (∀ (w : Word) (s : State), exec (.jmp (.abs w)) s = .next (s.after { s.cpu with pc := w } s.toBus 3)) ∧
  ∀ (p q : Word) (s : State), q.toNat = p.toNat / 256 * 256 + (p.toNat + 1) % 256 →
    let lo := s.toBus.read p
    let hi := lo.2.read q
    exec (.jmp (.ind p)) s = .next (s.after { s.cpu with pc := wordOf lo.1 hi.1 } hi.2 5)

/-- JSR pushes the address of its own last byte, high byte first, and jumps; RTS pulls a word, low byte first, and jumps to it plus one; both take 6
cycles and write no flag (R260, R261 with decision D20). -/
def Obligations.Subroutines : Prop :=
  ∀ (target : Word) (s : State),
    exec (.jsr target) s = .next (s.after { s.cpu with pc := target, sp := s.cpu.sp - 2 }
      (s.toBus.putStackWord s.cpu.sp (s.cpu.pc + 2)) 6) ∧
    exec .rts s = .next (s.after
      { s.cpu with pc := wordOf (s.stackByte (s.cpu.sp + 1)) (s.stackByte (s.cpu.sp + 2)) + 1, sp := s.cpu.sp + 2 }
      s.toBus 6)

/-- After a JSR an RTS comes back to the instruction behind it with every register as it was, whatever the stack pointer (R260, R261). -/
def Obligations.JsrThenRts : Prop :=
  ∀ (target : Word) (s : State), ∃ t u, exec (.jsr target) s = .next t ∧ exec .rts t = .next u ∧
    u.cpu = { s.cpu with pc := s.cpu.pc + 3 }

/-- BRK pushes `opaddr + 2` and the status byte with `B` set, sets `B` and `I`, and loads `PC` from 0xFFFE, low byte first, 7 cycles (R262); RTI pulls the
status byte, then `PC` low, then `PC` high, 6 cycles (R263 with decision D20, R30). -/
def Obligations.BreakAndReturn : Prop :=
  ∀ s : State,
    let f := { s.cpu.flags with b := true }
    let b := (s.toBus.putStackWord s.cpu.sp (s.cpu.pc + 2)).putStack (s.cpu.sp - 2) f.toByte
    let lo := b.read 0xFFFE
    let hi := lo.2.read 0xFFFF
    exec .brk s = .next (s.after
      { s.cpu with pc := wordOf lo.1 hi.1, sp := s.cpu.sp - 3, flags := { f with i := true } } hi.2 7) ∧
    exec .rti s = .next (s.after
      { s.cpu with pc := wordOf (s.stackByte (s.cpu.sp + 2)) (s.stackByte (s.cpu.sp + 3)), sp := s.cpu.sp + 3
                   flags := flagsOfBits (s.stackByte (s.cpu.sp + 1)) } s.toBus 6)

/-! Flags, the stack and no-operations. -/

/-- The assembled status byte is the sum of R29, and loading it back gives the flags it was made of; loading a byte takes its bits 0, 1, 2, 3, 4, 6
and 7 (R29, R30). -/
def Obligations.StatusByte : Prop :=
  (∀ f : Flags, f.toByte.toNat = f.c.toNat + 2 * f.z.toNat + 4 * f.i.toNat + 8 * f.d.toNat + 16 * f.b.toNat + 32 +
    64 * f.v.toNat + 128 * f.n.toNat ∧ Flags.ofByte f.toByte = f) ∧
  ∀ p : Byte, Flags.ofByte p = flagsOfBits p ∧ (Flags.ofByte p).toByte = p ||| 0x20

/-- The seven flag instructions write exactly the one flag named, 2 cycles (R280 to R286). -/
def Obligations.FlagInstructions : Prop :=
  ∀ s : State,
    let put := fun f : Flags => s.after { s.cpu with pc := s.cpu.pc + 1, flags := f } s.toBus 2
    let f := s.cpu.flags
    exec .clc s = .next (put { f with c := false }) ∧ exec .sec s = .next (put { f with c := true }) ∧
    exec .cli s = .next (put { f with i := false }) ∧ exec .sei s = .next (put { f with i := true }) ∧
    exec .cld s = .next (put { f with d := false }) ∧ exec .sed s = .next (put { f with d := true }) ∧
    exec .clv s = .next (put { f with v := false })

/-- PHA, PHP, PLA and PLP: store then decrement, increment then read, always in page 1; PHP sets `B` before it pushes (R86, R87, R290 to R293). -/
def Obligations.StackInstructions : Prop :=
  ∀ s : State,
    let c := { s.cpu with pc := s.cpu.pc + 1 }
    let f := { s.cpu.flags with b := true }
    let v := s.stackByte (s.cpu.sp + 1)
    exec .pha s = .next (s.after { c with sp := s.cpu.sp - 1 } (s.toBus.putStack s.cpu.sp s.cpu.a) 3) ∧
    exec .php s = .next (s.after { c with sp := s.cpu.sp - 1, flags := f } (s.toBus.putStack s.cpu.sp f.toByte) 3) ∧
    exec .pla s = .next (s.after { c with sp := s.cpu.sp + 1, a := v, flags := s.cpu.flags.withNZ v } s.toBus 4) ∧
    exec .plp s = .next (s.after { c with sp := s.cpu.sp + 1, flags := flagsOfBits v } s.toBus 4)

/-- The stack wraps within page 1 and overwrites itself silently: pushes never fail, any number of them; 256 of them bring the stack pointer back; the
last 256 bytes or fewer are pulled in LIFO order, whatever was pushed before them, and the stack pointer comes back (R91). -/
def Obligations.StackLifo : Prop :=
  ∀ (s : State) (earlier vs : List Byte),
    (s.pushes vs).cpu = { s.cpu with sp := s.cpu.sp - BitVec.ofNat 8 vs.length } ∧
    (vs.length = 256 → (s.pushes vs).cpu.sp = s.cpu.sp) ∧
    (vs.length ≤ 256 →
      let t := s.pushes (earlier ++ vs)
      (State.pulls vs.length t).1 = vs.reverse ∧ (State.pulls vs.length t).2.cpu = (s.pushes earlier).cpu)

/-- NOP and its copies, SKB and IGN change no register, no flag and no memory byte of their own: NOP only advances `PC`, SKB skips its byte, IGN makes
its one read (R145, R295 to R297). -/
def Obligations.NoOperations : Prop :=
  ∀ (op v : Byte) (m : Operand) (s : State),
    exec (.nop op) s = .next (s.after { s.cpu with pc := s.cpu.pc + 1 } s.toBus 2) ∧
    exec (.skb op v) s = .next (s.after { s.cpu with pc := s.cpu.pc + 2 } s.toBus 2) ∧
    exec (.ign op m) s = .next (s.after { s.cpu with pc := s.nextPC m.mode } (s.operand m).state.toBus
      (cyclesOf .ign m.mode (s.operand m).cross))

/-- An unfilled opcode halts the CPU for good: `Halted` is set, the host's callback gets the opcode's address (the address after it under the other
`HALT_ADDR_MODE`), the step counts `HALT_CHUNK` cycles, and nothing else changes, `PC` least of all (R500, R475 with decisions D13, D14). -/
def Obligations.UnfilledHalts : Prop :=
  ∀ (op : Byte) (s : State),
    exec (.unfilled op) s = .next { s with
      halted := true
      events := .halt (if s.cfg.haltAddrMode = .opcodeByte then s.cpu.pc else s.cpu.pc + 1) :: s.events
      stepCycles := s.cfg.haltChunk }

/-! Frames over all instructions. -/

/-- A register changes only in the instructions that write it; the accumulator also in the accumulator form of a shift. -/
def Obligations.RegisterFrame : Prop :=
  ∀ (i : Instr) (s : State), ∃ t, exec i s = .next t ∧
    (kindIn i accumulatorWriters = false → i.operand ≠ .acc → t.cpu.a = s.cpu.a) ∧
    (kindIn i xWriters = false → t.cpu.x = s.cpu.x) ∧
    (kindIn i yWriters = false → t.cpu.y = s.cpu.y) ∧
    (kindIn i stackPointerWriters = false → t.cpu.sp = s.cpu.sp)

/-- A flag changes only in the instructions that the table under R32 lists for it. -/
def Obligations.FlagFrame : Prop :=
  ∀ (i : Instr) (s : State), ∃ t, exec i s = .next t ∧
    (kindIn i carryWriters = false → t.cpu.flags.c = s.cpu.flags.c) ∧
    (kindIn i zeroSignWriters = false → t.cpu.flags.z = s.cpu.flags.z ∧ t.cpu.flags.n = s.cpu.flags.n) ∧
    (kindIn i interruptWriters = false → t.cpu.flags.i = s.cpu.flags.i) ∧
    (kindIn i decimalWriters = false → t.cpu.flags.d = s.cpu.flags.d) ∧
    (kindIn i breakWriters = false → t.cpu.flags.b = s.cpu.flags.b) ∧
    (kindIn i overflowWriters = false → t.cpu.flags.v = s.cpu.flags.v)

/-- Every form that stores nothing leaves every byte of memory as it was (R80, R160, R190, R220). -/
def Obligations.NoStoreMemoryFrame : Prop :=
  ∀ (i : Instr) (s : State), WellFormed i = true → s.closedMapper → kindIn i pushers = false →
    (kindIn i operandStores = false ∨ i.operand = .acc) →
    ∃ t, exec i s = .next t ∧ ∀ x, t.peek x = s.peek x

/-- With a mapper type of the spec (`closedMapper`), a form that stores at its effective address changes at most the bytes that `touches` names for the
address `target` computes: one byte of RAM, of a port's backing or of plain storage, none for the other ports, and for a store into the program window
that byte (type 0, R446), none (type 3, R448), or any byte of the window, whose banks the store switches (types 2, 4 and 7, R453). -/
def Obligations.StoreMemoryFrame : Prop :=
  ∀ (i : Instr) (s : State), WellFormed i = true → s.closedMapper → kindIn i operandStores = true → i.operand ≠ .acc →
    ∃ t, exec i s = .next t ∧ ∀ x, s.touches (s.target i.operand).ea x = false → t.peek x = s.peek x

/-- An instruction that pushes changes at most the bytes of the stack page it pushes: one for PHA and PHP, two for JSR, three for BRK (R86). -/
def Obligations.PushMemoryFrame : Prop :=
  ∀ (i : Instr) (s : State), WellFormed i = true → s.closedMapper → kindIn i pushers = true →
    ∃ t, exec i s = .next t ∧
      ∀ x, (∀ k < pushedBytes i, s.touches (stackAddr (s.cpu.sp - BitVec.ofNat 8 k)) x = false) → t.peek x = s.peek x

/-! Interrupts. -/

/-- A Normal request is dropped while anything is pending; every other request overwrites the latch (R505). -/
def Obligations.RequestCoalescing : Prop :=
  ∀ (q : Irq) (k : IrqKind),
    (q.pending = true ∧ k = .normal → q.request k = q) ∧
    (¬(q.pending = true ∧ k = .normal) → q.request k = { pending := true, kind := k })

/-- A Normal dispatch with `I` = 0: `PC` high, `PC` low and the status byte pushed, `I` set, `B` cleared after the push, `PC` from 0xFFFE, the latch
cleared (R507, R512; decisions D11, D32). That the idle latch keeps its kind is the model's choice, where the spec allows any value (DESIGN CHOICE, log entry 5). -/
def Obligations.NormalDispatch : Prop :=
  ∀ s : State, s.irq.kind = .normal → s.cpu.flags.i = false → s.closedMapper →
    let b := (s.toBus.putStackWord s.cpu.sp s.cpu.pc).putStack (s.cpu.sp - 2) s.cpu.flags.toByte
    s.dispatchIrq = { s with
      toBus := { b with irq := { s.irq with pending := false } }
      cpu := { s.cpu with pc := wordOf (s.peek 0xFFFE) (s.peek 0xFFFF), sp := s.cpu.sp - 3
                          flags := { s.cpu.flags with i := true, b := false } } }

/-- An NMI dispatch with the enable bit set pushes the same three bytes whatever `I` is, changes no flag and loads `PC` from 0xFFFA; a Reset dispatch only
loads `PC` from 0xFFFC; a masked Normal and a gated NMI only clear the latch, so the request is lost (R507 to R509; decisions D10, D11,
D27; that NMI and Reset change no flag, decision D31 for `I` and D32 for `B` and for the pushed byte). That the idle latch keeps its kind is the model's choice,
where the spec allows any value (DESIGN CHOICE, log entry 5). -/
def Obligations.OtherDispatches : Prop :=
  ∀ s : State, s.closedMapper →
    let cleared := { s with irq := { s.irq with pending := false } }
    let b := (s.toBus.putStackWord s.cpu.sp s.cpu.pc).putStack (s.cpu.sp - 2) s.cpu.flags.toByte
    (s.irq.kind = .nonMaskable → s.ppu.f_nmiOnVblank = true →
      s.dispatchIrq = { s with
        toBus := { b with irq := { s.irq with pending := false } }
        cpu := { s.cpu with pc := wordOf (s.peek 0xFFFA) (s.peek 0xFFFB), sp := s.cpu.sp - 3 } }) ∧
    (s.irq.kind = .nonMaskable → s.ppu.f_nmiOnVblank = false → s.dispatchIrq = cleared) ∧
    (s.irq.kind = .normal → s.cpu.flags.i = true → s.dispatchIrq = cleared) ∧
    (s.irq.kind = .reset →
      s.dispatchIrq = { cleared with cpu := { s.cpu with pc := wordOf (s.peek 0xFFFC) (s.peek 0xFFFD) } })

/-- A BRK followed by RTI resumes at `opaddr + 2` with `B` = 1 and every other register and flag as it was; an RTI right after a serviced interrupt gives
back every register and flag, at exactly the interrupted instruction (R263, R513). -/
def Obligations.TrapThenReturn : Prop :=
  ∀ s : State, s.closedMapper →
    (∃ t u, exec .brk s = .next t ∧ exec .rti t = .next u ∧
      u.cpu = { s.cpu with pc := s.cpu.pc + 2, flags := { s.cpu.flags with b := true } }) ∧
    ((s.irq.kind = .normal ∧ s.cpu.flags.i = false) ∨ (s.irq.kind = .nonMaskable ∧ s.ppu.f_nmiOnVblank = true) →
      ∃ t, exec .rti s.dispatchIrq = .next t ∧ t.cpu = s.cpu)

/-! The step. -/

/-- When the bytes at `PC` decode to an instruction and nothing is pending, the step runs it, then the APU and the PPU advance (`afterCpu`)
(R120, R121, R470). -/
def Obligations.StepRunsDecoded : Prop :=
  ∀ (s : State) (i : Instr) (n : Nat), s.cpuRuns → s.irq.pending = false → s.closedMapper →
    (∀ k < n, plainAddr (s.cpu.pc + BitVec.ofNat 16 k)) →
    decode ((List.range n).map fun k => s.peek (s.cpu.pc + BitVec.ofNat 16 k).toNat) = .ok (i, []) →
    ∃ t, exec i s = .next t ∧ step s = .next t.afterCpu

/-- A pending request is dispatched at the top of the step, and the instruction at the new `PC` executes in the same step (R506, R507;
decision D12). -/
def Obligations.StepDispatchesFirst : Prop :=
  ∀ s : State, s.cpuRuns → s.irq.pending = true → s.closedMapper → step s = step s.dispatchIrq

/-- While halt cycles are left the CPU executes nothing and dispatches nothing: at most `HALT_CHUNK` of them are taken from the counter and handed to the
devices. A halted CPU stays halted with every register as it is, whatever is pending, while the devices go on by `HALT_CHUNK` cycles
(R474, R475; decisions D14, D21). -/
def Obligations.IdleSteps : Prop :=
  ∀ s : State, s.cfg.ok = true → s.inFrame = true →
    (s.halted = false → s.haltCycles ≠ 0 →
      let c := min s.haltCycles s.cfg.haltChunk
      step s = .next (State.afterCpu { s with haltCycles := s.haltCycles - c, stepCycles := c })) ∧
    (s.halted = true →
      ∃ t, step s = .next t ∧ t = (s.setCycles s.cfg.haltChunk).afterCpu ∧ t.halted = true ∧ t.cpu = s.cpu)

/-! The bus and the devices. -/

/-- Onboard RAM is mirrored four times: two addresses below 0x2000 that agree mod 0x800 are one byte (R82). A store to a plain address is read back
there, and no other byte of memory changes (R80, R81, R104; below the program window, or with mapper type 0, decision D7). -/
def Obligations.ReadAfterWrite : Prop :=
  ∀ (b : Bus) (a : Word) (v : Byte),
    (∀ a' : Word, a.toNat < 0x2000 → a'.toNat < 0x2000 → a.toNat % 0x800 = a'.toNat % 0x800 →
      (b.write a v).read a' = (v, b.write a v) ∧ (b.read a).1 = (b.read a').1) ∧
    (b.closedMapper → plainAddr a → a.toNat < 0x8000 ∨ b.cart.mapperType = 0 →
      ((b.write a v).read a).1 = v ∧
      ∀ x : Word, plainAddr x → b.touches a x.toNat = false → ((b.write a v).read x).1 = (b.read x).1)

/-- A read of the status port, at any of its mirrors, returns the status as it was, clears the vblank flag alone and resets the write toggle
(R92, R330). -/
def Obligations.StatusPortRead : Prop :=
  ∀ (b : Bus) (a : Word), 0x2000 ≤ a.toNat → a.toNat < 0x4000 → a.toNat % 8 = 2 →
    b.read a = (b.ppu.ppuStatus,
      { b with ppu := { b.ppu with firstWrite := true, ppuStatus := b.ppu.ppuStatus &&& 0x7F } })

/-- The VRAM data port: below the palette a read returns the byte buffered by the read before and buffers the byte at the address; from the palette up it
returns the byte itself; the address advances by 1 or 32 (R335). -/
def Obligations.VramPortRead : Prop :=
  ∀ (b : Bus) (a : Word), b.closedMapper → 0x2000 ≤ a.toNat → a.toNat < 0x4000 → a.toNat % 8 = 7 →
    let p := b.ppu
    let next := Loopy.unpack (p.vramAddress + if p.f_addrInc then 32 else 1)
    let reg := { p.reg with fv := p.reg.fv &&& 3 }
    b.read a =
      if p.vramAddress ≤ 0x3EFF then
        (p.vramBufferedReadValue,
          { b with ppu := { p with
              vramBufferedReadValue := if p.vramAddress < 0x2000 then p.vramAt p.vramAddress else p.vramRead p.vramAddress
              cnt := next, reg := reg } })
      else (p.vramRead p.vramAddress, { b with ppu := { p with cnt := next, reg := reg } })

/-- The four transparent palette slots are one byte with their sprite copies: a byte written at either address of the pair is read at both, and every other
palette address keeps its byte (R343). -/
def Obligations.PalettePairs : Prop :=
  ∀ (p : Ppu) (a k : Nat) (v : Byte), a < 0x20 → k < 0x20 →
    (p.vramWrite (0x3F00 + a) v).vramRead (0x3F00 + k) =
      if k = a ∨ (a % 4 = 0 ∧ k % 16 = a % 16) then v else p.vramRead (0x3F00 + k)

/-- Sprite DMA copies the 256 bytes of the page into sprite RAM, beginning at the sprite address and wrapping, adds 513 halt cycles, and changes no byte of
memory (R338; decision D35). -/
def Obligations.SpriteDma : Prop :=
  ∀ (b : Bus) (v : Byte),
    (∀ i : Byte, (b.write 0x4014 v).ppu.spriteAt (b.ppu.sramAddress + i).toNat = b.peek (256 * v.toNat + i.toNat)) ∧
    (b.write 0x4014 v).haltCycles = b.haltCycles + 513 ∧
    (b.write 0x4014 v).ppu.sramAddress = b.ppu.sramAddress ∧
    ∀ x, (b.write 0x4014 v).peek x = b.peek x

/-- Controller 1 is read out button by button: 0x41 or 0x40 at steps 0 to 7, 1 at step 19, 0 at the others, and each read advances the counter of 24
steps (R100). -/
def Obligations.ControllerPort : Prop :=
  ∀ b : Bus,
    let p := b.pads
    let answer : Byte :=
      if p.strobe1 ≤ 7 then (if p.buttons1.nth p.strobe1 then 0x41 else 0x40) else if p.strobe1 = 19 then 1 else 0
    b.read 0x4016 = (answer, { b with pads := { p with strobe1 := (p.strobe1 + 1) % 24 } })

/-- A write to the strobe port resets both counters exactly on a 1 to 0 transition of bit 0, keeps the byte written for the next such test, and does
nothing else (R101). -/
def Obligations.StrobePort : Prop :=
  ∀ (b : Bus) (v : Byte),
    let p := b.pads
    b.write 0x4016 v = { b with
      pads := if v.getLsbD 0 = false ∧ p.joypadLastWrite.getLsbD 0 = true then
          { p with joypadLastWrite := v, strobe1 := 0, strobe2 := 0 }
        else { p with joypadLastWrite := v } }

/-- A read of 0x4015 reports which channels still run and both interrupt flags, and clears the two flags (R378). Writing 0 there stops every channel: all
five are disabled with their length counters at 0 (R377, R385); the three with a volume, the pulses and the noise, give 0 at once (R419, read as decision D39
reads it), while the triangle's phase stops and the triangle and the DMC hold their level (R419, D39). -/
def Obligations.ApuStatus : Prop :=
  ∀ b : Bus,
    let a := b.apu
    let r := b.read 0x4015
    let w := (b.write 0x4015 0).apu
    (r.1.getLsbD 0 = (a.pulse1.isEnabled && decide (0 < a.pulse1.lengthCounter)) ∧
      r.1.getLsbD 1 = (a.pulse2.isEnabled && decide (0 < a.pulse2.lengthCounter)) ∧
      r.1.getLsbD 2 = (a.triangle.isEnabled && decide (0 < a.triangle.lengthCounter)) ∧
      r.1.getLsbD 3 = (a.noise.isEnabled && decide (0 < a.noise.lengthCounter)) ∧
      r.1.getLsbD 4 = (a.dmc.isEnabled && decide (0 < a.dmc.playLengthCounter)) ∧
      r.1.getLsbD 5 = false ∧
      r.1.getLsbD 6 = (a.frameIrqActive && a.frameIrqEnabled) ∧
      r.1.getLsbD 7 = a.dmc.irqGenerated) ∧
    r.2 = { b with apu := { a with frameIrqActive := false, dmc := { a.dmc with irqGenerated := false } } } ∧
    ((b.write 0x4015 0).read 0x4015).1 &&& 0x9F = 0 ∧
    (w.pulse1.isEnabled = false ∧ w.pulse2.isEnabled = false ∧ w.triangle.isEnabled = false ∧ w.noise.isEnabled = false ∧
      w.dmc.isEnabled = false) ∧
    (w.pulse1.lengthCounter = 0 ∧ w.pulse2.lengthCounter = 0 ∧ w.triangle.lengthCounter = 0 ∧ w.noise.lengthCounter = 0 ∧
      w.dmc.playLengthCounter = 0) ∧
    (w.pulse1.sampleValue = 0 ∧ w.pulse2.sampleValue = 0 ∧ w.noise.sampleValue = 0) ∧
    (w.triangle.sampleCondition = false ∧ w.triangle.sampleValue = a.triangle.sampleValue ∧ w.dmc.sample = a.dmc.sample)

/-- Selecting a bank past the last one selects it modulo the count: the copy is the same, for each of the seven bank-copy primitives (R438, R439, R442).
The scanline counter of mapper type 4 counts down while its interrupt is enabled; below zero it requests a Normal interrupt and reloads from the latch; for
types 0, 2, 3 and 7 nothing happens (R444). -/
def Obligations.MapperBanksAndCounter : Prop :=
  ∀ b : Bus,
    (∀ k a : Nat,
      b.loadRomBank (b.cart.prgBanks + k) a = b.loadRomBank k a ∧
      b.load32kRomBank (b.cart.prgBanks + k) a = b.load32kRomBank k a ∧
      b.load8kRomBank (2 * b.cart.prgBanks + k) a = b.load8kRomBank k a ∧
      b.loadVromBank (b.cart.chrBanks + k) a = b.loadVromBank k a ∧
      b.load8kVromBank (b.cart.chrBanks + k) a = b.load8kVromBank k a ∧
      b.load2kVromBank (2 * b.cart.chrBanks + k) a = b.load2kVromBank k a ∧
      b.load1kVromBank (4 * b.cart.chrBanks + k) a = b.load1kVromBank k a) ∧
    (b.cart.mapperType = 4 → b.mapper.irqEnable = true → 1 ≤ b.mapper.irqCounter →
      b.clockIrqCounter = { b with mapper := { b.mapper with irqCounter := b.mapper.irqCounter - 1 } }) ∧
    (b.cart.mapperType = 4 → b.mapper.irqEnable = true → b.mapper.irqCounter ≤ 0 →
      b.clockIrqCounter = { b.requestIrq .normal with
        mapper := { b.mapper with irqCounter := b.mapper.irqLatchValue } }) ∧
    (b.cart.mapperType ∈ [0, 2, 3, 7] ∨ (b.cart.mapperType = 4 ∧ b.mapper.irqEnable = false) → b.clockIrqCounter = b)

/-- The dot on which the countdown of a requested end of frame reaches zero, the one that begins with the counter at 1, completes the frame; no other dot
does (R312, R314). It hands the finished picture to the host (R317) and requests an NMI whatever the enable bit is (R315 with decision D27). -/
def Obligations.FrameEnd : Prop :=
  ∀ b : Bus,
    (b.dot.2 = true ↔ b.ppu.requestEndFrame = true ∧ b.ppu.nmiCounter = 1) ∧
    (b.dot.2 = true → b.dot.1.events = .frame (b.ppu.dotSprite0.dotCountdown b.cfg).1.buffer :: b.events ∧
      b.dot.1.irq = { pending := true, kind := .nonMaskable })

/-! The session. -/

/-- A load that fails validation reports its error and changes nothing else (R434, R478, R502). A successful load resets the CPU, the latch, the counters
and the APU, whatever they were, and requests a Reset interrupt (R478, R540 to R542, R544); the controllers and the light gun are reset too (DEDUCED, log entry
32). With a mapper type of the spec it also resets the PPU and the mapper registers (R360, R451), and it leaves in memory, whatever was there: below 0x6000 the
reset fill (R38, R541); at 0x6000 the saved battery RAM where the cartridge has a battery and an image of 0x2000 bytes is at hand, else zeros (R443; the image
handed back with the load or the configuration's, R544, log entry 37); in the program window bank 0 and, in the upper half, the bank of the kind's power-on
layout (R440, R447, R450); in the pattern window banks 0 and 1, the only bank twice, or zeros without one, and zeros in the rest of `vram` (R440, R442). -/
def Obligations.LoadRom : Prop :=
  ∀ (s : State) (bytes : List Byte) (image : Option (List Byte)),
    let t := s.loadRom bytes image
    (∀ e : LoadError, parseRom s.cfg bytes = .error e →
      t = { s with events := .loadFailed e :: s.events } ∧
      (¬(16 ≤ bytes.length ∧ bytes.take 4 = [0x4E, 0x45, 0x53, 0x1A]) → e = .invalidRom)) ∧
    ∀ c : Cart, parseRom s.cfg bytes = .ok c →
      (t.cpu = Cpu.reset s.cfg ∧ t.halted = false ∧ t.haltCycles = 0 ∧ t.irq = { pending := true, kind := .reset } ∧
        t.apu = Apu.reset s.cfg ∧ t.pads = Pads.reset ∧ t.cart = c ∧ t.loaded = true ∧ t.cfg = s.cfg) ∧
      (c.mapperType ∈ [0, 2, 3, 4, 7] →
        let saved := ((s.batteryImage image).filter fun l => c.battery && l.length == 0x2000).getD []
        let upper := if c.mapperType = 2 ∨ c.mapperType = 4 then c.prgBanks - 1 else if 1 < c.prgBanks then 1 else 0
        t.ppu = { Ppu.reset s.cfg with vram := t.ppu.vram, currentMirroring := some c.initialMirroring } ∧
        t.mapper = MapperRegs.reset s.cfg c.mapperType ∧
        (∀ a, a < 0x6000 → t.memAt a = memDefault s.cfg a) ∧
        (∀ j, j < 0x2000 → t.memAt (0x6000 + j) = saved.getD j 0) ∧
        (∀ j, j < 0x4000 →
          t.memAt (0x8000 + j) = (c.rom.getD 0 []).getD j 0 ∧ t.memAt (0xC000 + j) = (c.rom.getD upper []).getD j 0) ∧
        (∀ j, j < 0x1000 →
          t.ppu.vramAt j = (c.vrom.getD 0 []).getD j 0 ∧
          t.ppu.vramAt (0x1000 + j) = (c.vrom.getD (if 1 < c.chrBanks then 1 else 0) []).getD j 0) ∧
        ∀ a, 0x2000 ≤ a → t.ppu.vramAt a = 0)

/-- Restoring a snapshot gives back, from any state in between, the fields a snapshot holds: the CPU, `Halted`, `mem`, the latch, the halt counter, the
controllers, the PPU, the APU, the mapper registers and the cartridge (R483, whose list is decision D45), and `loaded` (log entry 31). What a snapshot does
not hold stays: the configuration, the host's queue, the events, `stepCycles` and `inFrame` (log entry 31). A second snapshot is the same (R484). -/
def Obligations.SnapshotRoundTrip : Prop :=
  ∀ s t : State,
    t.restore s.snapshot = { s with
      cfg := t.cfg, events := t.events, stepCycles := t.stepCycles, inFrame := t.inFrame, hostCalls := t.hostCalls } ∧
    (t.restore s.snapshot).snapshot = s.snapshot

/-! Reset and invariants. -/

/-- The machine right after reset (R66, R541). With the default configuration: the CPU, the latch, the halt fields and `mem` (R38). With every
configuration: the byte `mem[0x2000]`, which is `MEM2000_RESET` (R38, R543), every field of the PPU (R42 to R50, R52, R53, R55, with the mirror table the
identity and the decoded palettes of zeroed palette RAM, R360 and decision D28) and of the APU (R372 with decision D36), the controllers and the light gun
(R40, R41), and the registers of every mapper type of the spec (R451). The mirror table is log entry 38's reading of R53. Not stated are the values that
the spec leaves open: the kind of the idle latch (log entry 5), the pixel buffers (R51, log entry 4), and the cached tile row (log entry 19). -/
def Obligations.ResetValues : Prop :=
  (let s := State.reset
   s.cpu = { a := 0, x := 0, y := 0, sp := 0xFF, pc := 0x8000
             flags := { c := false, z := false, i := false, d := true, b := false, v := false, n := false } } ∧
   s.cpu.flags.toByte = 0x28 ∧ s.irq.pending = false ∧ s.haltCycles = 0 ∧ s.halted = false ∧ s.loaded = false ∧
   (∀ p : Nat, p < 4 →
     s.memAt (0x800 * p + 8) = 0xF7 ∧ s.memAt (0x800 * p + 9) = 0xEF ∧ s.memAt (0x800 * p + 10) = 0xDF ∧ s.memAt (0x800 * p + 15) = 0xBF) ∧
   (∀ a : Nat, a < 0x2000 → a % 0x800 ∉ [8, 9, 10, 15] → s.memAt a = 0xFF) ∧
   ∀ a : Nat, 0x2001 ≤ a → a < 0x10000 → s.memAt a = 0) ∧
  ∀ cfg : Config,
    let s := State.resetWith cfg
    let p := Ppu.reset cfg
    let loopy : Loopy := { fv := 0, v := 0, h := 0, vt := 0, ht := 0 }
    let env : Envelope :=
      { envDecayDisable := false, envDecayLoopEnable := false, envDecayRate := 0, envDecayCounter := 0, envReset := true, envVolume := 0, masterVolume := 0 }
    let pulse : Pulse :=
      { isEnabled := false, lengthCounter := 0, lengthCounterEnable := false, progTimerMax := 0, progTimerCount := 0, squareCounter := 0, dutyMode := 0,
        env := env, sweepActive := false, sweepCarry := false, sweepCounter := 0, sweepCounterMax := 0, sweepMode := false, sweepShiftAmount := 0,
        updateSweepPeriod := true, sampleValue := 0 }
    let released : Buttons := { a := false, b := false, select := false, start := false, up := false, down := false, left := false, right := false }
    (s.ppu = p ∧ s.apu = Apu.reset cfg ∧ s.pads = Pads.reset ∧ s.mapper = MapperRegs.reset cfg s.cart.mapperType) ∧
    s.memAt 0x2000 = cfg.mem2000Reset ∧
    p = {
      vram := p.vram, spriteMem := p.spriteMem, sramAddress := 0,
      f_nmiOnVblank := false, f_spriteSize := false, f_bgPatternTable := false, f_spPatternTable := false, f_addrInc := false, f_nTblAddress := 0,
      f_color := 0, f_spVisibility := false, f_bgVisibility := false, f_spClipping := false, f_bgClipping := false, f_dispType := false,
      reg := loopy, cnt := loopy, regFH := 0, regS := 0, ppuStatus := 0, firstWrite := true, vramBufferedReadValue := 0, scanline := 0, curX := 0,
      requestEndFrame := false, nmiCounter := 0, dummyCycleToggle := false, buffer := p.buffer, bgbuffer := p.bgbuffer, pixrendered := p.pixrendered,
      spr0Hit := none, hitSpr0 := false, currentMirroring := none, lastRenderedScanline := -1, scanlineAlreadyRendered := false, validTileData := false,
      scantile := p.scantile, attrib := p.attrib } ∧
    (∀ a : Nat, p.vramAt a = 0 ∧ p.spriteAt a = 0) ∧
    (∀ a : Nat, a < 0x8000 → mirrorAddr p.currentMirroring a = a) ∧
    (∀ n : Nat, physNametable p.currentMirroring n = n) ∧
    (∀ k : Nat, p.imgPalette cfg k = emph cfg 0 0 ∧ p.sprPalette cfg k = emph cfg 0 0) ∧
    Apu.reset cfg = {
      frameIrqEnabled := false, frameIrqActive := false, countSequence := false, derivedFrameCounter := 4, frameIrqCounterMax := 4, masterFrameCounter := 0,
      initCounter := cfg.apuInitWindow, initingHardware := false, extraCycles := 0, sampleTimer := 0, accCount := 0,
      smpSquare1 := 0, smpSquare2 := 0, smpTriangle := 0, smpDmc := 0, triValue := 0, smpAccumL := 0, smpAccumR := 0, prevSampleL := 0, prevSampleR := 0,
      pulse1 := pulse, pulse2 := pulse,
      triangle := {
        isEnabled := false, lengthCounter := 0, lengthCounterEnable := false, progTimerMax := 0, progTimerCount := 0, triangleCounter := 0,
        linearCounter := 0, linearCounterLoadValue := 0, lcHalt := true, lcControl := false, sampleCondition := false, sampleValue := 0x0F },
      noise := {
        isEnabled := false, lengthCounter := 0, lengthCounterEnable := false, progTimerMax := 0, progTimerCount := 0, shiftReg := 1, randomMode := false,
        randomBit := false, env := env, sampleValue := 0, accValue := 0, accCount := 1 },
      dmc := {
        isEnabled := false, hasSample := false, irqGenerated := false, playMode := .normal, dmaFrequency := 0, dmaCounter := 0, deltaCounter := 0,
        dacLsb := false, playStartAddress := 0, playAddress := 0, playLength := 0, playLengthCounter := 0, shiftCounter := 0, data := 0, sample := 0 } } ∧
    Pads.reset =
      { buttons1 := released, buttons2 := released, strobe1 := 0, strobe2 := 0, joypadLastWrite := 0, zapper := none, zapperFired := false } ∧
    ∀ t ∈ [0, 2, 3, 4, 7], MapperRegs.reset cfg t =
      { command := 0, prgAddressSelect := false, chrAddressSelect := false, prgAddressChanged := false, irqCounter := 0, irqLatchValue := 0,
        irqEnable := false, regs := [] }

/-- The invariant holds right after reset. -/
def Obligations.ResetInvariant : Prop := State.reset.Inv

/-- Every step from every state that satisfies the invariant leads to one that does: the stores stay in canonical form, the dot counters in range, the unused
status bits 0, the noise register nonzero, the delta counter in 6 bits, the strobe counters in 24 steps (R38, R47, R49, R60, R61, R41). -/
def Obligations.StepKeepsInvariant : Prop :=
  ∀ s t : State, s.Inv → step s = .next t → t.Inv

/-- A step always answers a next state when the configuration is one a machine is built with, and never changes the configuration; otherwise it is refused
by name. -/
def Obligations.StepTotal : Prop :=
  ∀ s : State,
    (s.cfg.ok = true → ∃ t, step s = .next t ∧ t.cfg = s.cfg) ∧
    (s.cfg.ok = false → step s = .refused .badConfig)
end

