-- ==== Sys2Proof/Laws/Apu.lean ====
section
/-!
SUPPORT. The laws of the APU: every operation keeps the APU's invariant.
-/

namespace Sys2Proof.Machine

/-- A shift of the noise register never gives 0 from a nonzero register (R396). -/
theorem noise_feedback_ne_zero (sr : BitVec 15) (r : Bool) (h : sr ≠ 0) :
    (sr <<< 1) ||| (BitVec.ofBool (sr.getLsbD 14 ^^ (if r then sr.getLsbD 8 else sr.getLsbD 13))).zeroExtend 15 ≠ 0 := by
  intro hz
  apply h
  have hb : ∀ k, k < 14 → sr.getLsbD k = false := by
    intro k hk
    have := congrArg (fun b : BitVec 15 => b.getLsbD (k + 1)) hz
    have hk' : k + 1 < 15 := by omega
    simp only [BitVec.getLsbD_or, BitVec.getLsbD_shiftLeft, hk', decide_true, Bool.true_and,
      Nat.add_sub_cancel] at this
    simp only [show (0 : BitVec 15) = 0#15 from rfl, BitVec.getLsbD_zero, Bool.or_eq_false_iff] at this
    simpa using this.1
  have h0 := congrArg (fun b : BitVec 15 => b.getLsbD 0) hz
  have h14 : sr.getLsbD 14 = false := by
    have h8 := hb 8 (by omega)
    have h13 := hb 13 (by omega)
    have h8' : sr[8] = false := h8
    have h13' : sr[13] = false := h13
    have h0' : sr[14] = false := by simpa [BitVec.getLsbD_or, h8', h13'] using h0
    exact h0'
  apply BitVec.eq_of_getLsbD_eq
  intro i hi
  rcases Nat.lt_or_ge i 14 with hlt | hge
  · simpa using hb i hlt
  · have : i = 14 := by omega
    subst this; simpa using h14

/-- The part of the noise channel that the invariant speaks of. -/
abbrev Noise.Inv (n : Noise) : Prop := n.shiftReg ≠ 0 ∧ 0 < n.accCount

theorem Noise.inv_updateSample {n : Noise} (h : n.Inv) : n.updateSample.Inv := h

theorem Noise.inv_writeReg {n : Noise} (h : n.Inv) (r : Nat) (v : Byte) : (n.writeReg r v).Inv := by
  unfold Noise.writeReg; repeat' split
  all_goals exact h

theorem Noise.inv_setEnabled {n : Noise} (h : n.Inv) (e : Bool) : (n.setEnabled e).Inv := h

theorem Noise.inv_clockLength {n : Noise} (h : n.Inv) : n.clockLength.Inv := by
  unfold Noise.clockLength; dsimp only; repeat' split
  all_goals exact h

theorem Noise.inv_clockEnvelope {n : Noise} (h : n.Inv) : n.clockEnvelope.Inv := h

theorem Noise.inv_shift {n : Noise} (h : n.Inv) : n.shift.Inv :=
  ⟨noise_feedback_ne_zero n.shiftReg n.randomMode h.1, h.2⟩

theorem Noise.inv_clockOne {n : Noise} (h : n.Inv) : n.clockOne.Inv := by
  unfold Noise.clockOne; dsimp only; split
  · exact ⟨noise_feedback_ne_zero n.shiftReg n.randomMode h.1, Nat.succ_pos _⟩
  · exact ⟨h.1, Nat.succ_pos _⟩

theorem Noise.inv_clockMany : ∀ (k : Nat) {n : Noise}, n.Inv → (Noise.clockMany k n).Inv := by
  intro k
  induction k with
  | zero => intro n h; exact h
  | succ k ih => intro n h; exact ih (Noise.inv_clockOne h)

theorem Noise.inv_clockTimer {n : Noise} (h : n.Inv) (k : Nat) : (n.clockTimer k).Inv := by
  unfold Noise.clockTimer; split
  · exact ⟨h.1, Nat.lt_of_lt_of_le h.2 (Nat.le_add_right _ _)⟩
  · exact Noise.inv_clockMany k h

/-- An APU whose noise and DMC channels satisfy the invariant satisfies it. -/
theorem Apu.inv_of {a : Apu} (hn : a.noise.Inv) (hd : a.dmc.deltaCounter ≤ 63) : a.Inv := ⟨hn.1, hn.2, hd⟩

theorem Apu.inv_setNoise {a : Apu} (h : a.Inv) {n : Noise} (hn : n.Inv) : ({ a with noise := n } : Apu).Inv :=
  ⟨hn.1, hn.2, h.2.2⟩

theorem Apu.inv_setDmc {a : Apu} (h : a.Inv) {d : Dmc} (hd : d.deltaCounter ≤ 63) : ({ a with dmc := d } : Apu).Inv :=
  ⟨h.1, h.2.1, hd⟩

theorem Apu.Inv.noise {a : Apu} (h : a.Inv) : a.noise.Inv := ⟨h.1, h.2.1⟩

theorem Dmc.delta_writeReg {d : Dmc} (h : d.deltaCounter ≤ 63) (r : Nat) (v : Byte) :
    (d.writeReg r v).deltaCounter ≤ 63 := by
  unfold Dmc.writeReg
  split
  · exact h
  · split
    · have := (v.extractLsb' 1 6).isLt
      simp only; omega
    · split
      · exact h
      · exact h

theorem Dmc.delta_writeEnable {d : Dmc} (h : d.deltaCounter ≤ 63) (e : Bool) : (d.writeEnable e).deltaCounter ≤ 63 := by
  unfold Dmc.writeEnable; cases e <;> exact h

theorem Dmc.delta_outputBit {d : Dmc} (h : d.deltaCounter ≤ 63) : d.outputBit.deltaCounter ≤ 63 := by
  unfold Dmc.outputBit; split
  · dsimp only; split
    · split <;> omega
    · omega
  · exact h

theorem Dmc.delta_restart {d : Dmc} (h : d.deltaCounter ≤ 63) : d.restart.deltaCounter ≤ 63 := by
  unfold Dmc.restart; split <;> exact h

theorem Dmc.delta_flagEnd {d : Dmc} (h : d.deltaCounter ≤ 63) : d.flagEnd.deltaCounter ≤ 63 := by
  unfold Dmc.flagEnd; split <;> exact h

theorem Apu.inv_writeEnable {a : Apu} (h : a.Inv) (v : Byte) : (a.writeEnable v).Inv :=
  Apu.inv_of (Noise.inv_setEnabled h.noise _) (Dmc.delta_writeEnable h.2.2 _)

theorem Apu.inv_clockLengthAndSweep {a : Apu} (h : a.Inv) : a.clockLengthAndSweep.Inv :=
  Apu.inv_of (Noise.inv_clockLength h.noise) h.2.2

theorem Apu.inv_clockEnvelopes {a : Apu} (h : a.Inv) : a.clockEnvelopes.Inv :=
  Apu.inv_of (Noise.inv_clockEnvelope h.noise) h.2.2

theorem Apu.inv_ite {c : Prop} [Decidable c] {a b : Apu} (ha : a.Inv) (hb : b.Inv) : (if c then a else b).Inv := by
  split
  · exact ha
  · exact hb

theorem Apu.inv_frameCounterTick {a : Apu} (h : a.Inv) : a.frameCounterTick.Inv := by
  unfold Apu.frameCounterTick
  generalize (if a.frameIrqCounterMax ≤ a.derivedFrameCounter + 1 then 0 else a.derivedFrameCounter + 1) = k
  dsimp only
  have h1 : ({ a with derivedFrameCounter := k } : Apu).Inv := h
  generalize ({ a with derivedFrameCounter := k } : Apu) = a0 at h1
  have h2 := Apu.inv_ite (c := k = 1 ∨ k = 3) (Apu.inv_clockLengthAndSweep h1) h1
  generalize (if k = 1 ∨ k = 3 then a0.clockLengthAndSweep else a0) = a1 at h2 ⊢
  have h3 := Apu.inv_ite (c := k < 4) (Apu.inv_clockEnvelopes h2) h2
  generalize (if k < 4 then a1.clockEnvelopes else a1) = a2 at h3 ⊢
  split
  · exact h3
  · exact h3

theorem Apu.inv_writeSequencer {a : Apu} (h : a.Inv) (v : Byte) : (a.writeSequencer v).Inv := by
  unfold Apu.writeSequencer; dsimp only; split
  · exact Apu.inv_frameCounterTick (a := { a with
      countSequence := v.getLsbD 7, masterFrameCounter := 0, frameIrqActive := false
      frameIrqEnabled := !v.getLsbD 6, frameIrqCounterMax := 5, derivedFrameCounter := 0 }) h
  · exact h

/-- Every register write keeps the APU's invariant. -/
theorem Apu.inv_write {a : Apu} (h : a.Inv) (addr : Nat) (v : Byte) : (a.write addr v).Inv := by
  unfold Apu.write
  have hp1 : ∀ p, ({ a with pulse1 := p } : Apu).Inv := fun _ => h
  have hp2 : ∀ p, ({ a with pulse2 := p } : Apu).Inv := fun _ => h
  have ht : ∀ t, ({ a with triangle := t } : Apu).Inv := fun _ => h
  refine Apu.inv_ite (hp1 _) (Apu.inv_ite (hp2 _) (Apu.inv_ite (ht _) (Apu.inv_ite ?_ (Apu.inv_ite ?_ (Apu.inv_ite ?_
    (Apu.inv_ite ?_ h))))))
  · exact Apu.inv_setNoise h (Noise.inv_writeReg h.noise ..)
  · exact Apu.inv_setDmc h (Dmc.delta_writeReg h.2.2 ..)
  · exact Apu.inv_writeEnable h v
  · exact Apu.inv_writeSequencer h v

theorem Apu.inv_readStatus {a : Apu} (h : a.Inv) : a.readStatus.2.Inv := h

theorem Apu.inv_initWindow {a : Apu} (h : a.Inv) (n : Nat) : (a.initWindow n).1.Inv := by
  unfold Apu.initWindow; split <;> exact h

theorem Apu.inv_clamp (cfg : Config) {a : Apu} (h : a.Inv) (n : Nat) : (a.clamp cfg n).2.Inv := by
  unfold Apu.clamp; dsimp only; split <;> exact h

theorem Apu.inv_clockTimers {a : Apu} (h : a.Inv) (n : Nat) : (a.clockTimers n).Inv :=
  Apu.inv_of (Noise.inv_clockTimer h.noise n) h.2.2

theorem Apu.inv_advanceSequencer (cfg : Config) {a : Apu} (h : a.Inv) (n : Nat) : (a.advanceSequencer cfg n).Inv := by
  have key : ∀ k, ({ a with masterFrameCounter := k } : Apu).Inv := fun _ => h
  unfold Apu.advanceSequencer
  exact Apu.inv_ite (Apu.inv_frameCounterTick (key _)) (key _)

theorem Apu.inv_accumulate {a : Apu} (h : a.Inv) (n : Nat) : (a.accumulate n).Inv := h

theorem Apu.inv_averages {a : Apu} (h : a.Inv) : a.averages.Inv := by
  unfold Apu.averages; dsimp only; exact Apu.inv_ite h h

theorem Apu.inv_sample (cfg : Config) {a : Apu} (h : a.Inv) : (a.sample cfg).1.Inv := by
  have ha := Apu.inv_averages h
  unfold Apu.sample
  generalize a.averages = b at ha
  exact ⟨ha.1, Nat.one_pos, ha.2.2⟩

theorem Apu.inv_advanceSampleTimer (cfg : Config) {a : Apu} (h : a.Inv) (n : Nat) :
    (a.advanceSampleTimer cfg n).1.Inv := by
  unfold Apu.advanceSampleTimer; dsimp only; split
  · exact Apu.inv_sample cfg (a := { a with sampleTimer := a.sampleTimer + 1024 * n }) h
  · exact h

theorem Apu.inv_reset (cfg : Config) : (Apu.reset cfg).Inv := by
  refine ⟨?_, ?_, ?_⟩ <;> simp [Apu.reset, Noise.reset, Dmc.reset]

end Sys2Proof.Machine
end

