-- ==== Sys2Proof/Laws/Store.lean ====
section
/-!
SUPPORT. The laws of the two stores: what a read gives after a write, that a write keeps the canonical form, and that equal stores in
canonical form are equal data.
-/

namespace Sys2Proof.Machine

/-! The sparse byte store. -/

theorem Cells.get_append_of_notMem (d : Nat → Byte) (m₁ m₂ : List Host.Cell) (a : Nat) (h : ∀ c ∈ m₁, c.1 ≠ a) :
    Cells.get d (m₁ ++ m₂) a = Cells.get d m₂ a := by
  induction m₁ with
  | nil => rfl
  | cons c m ih =>
    have hc : c.1 ≠ a := h c (by simp)
    simp only [List.cons_append, Cells.get, if_neg hc]
    exact ih fun c' h' => h c' (by simp [h'])

theorem Cells.get_filter_of_true (d : Nat → Byte) (m : List Host.Cell) (p : Host.Cell → Bool) (a : Nat)
    (h : ∀ v, p (a, v) = true) : Cells.get d (m.filter p) a = Cells.get d m a := by
  induction m with
  | nil => rfl
  | cons c m ih =>
    obtain ⟨k, v⟩ := c
    by_cases hk : k = a
    · subst hk; simp [List.filter, h v, Cells.get]
    · by_cases hp : p (k, v) = true
      · simp [hp, Cells.get, hk, ih]
      · simp [hp, Cells.get, hk, ih]

theorem Cells.get_of_notMem (d : Nat → Byte) (m : List Host.Cell) (a : Nat) (h : ∀ c ∈ m, c.1 ≠ a) :
    Cells.get d m a = d a := by
  have := Cells.get_append_of_notMem d m [] a h
  simpa [Cells.get] using this

/-- Every entry of a run lies in the run and differs from the default. -/
theorem Cells.mem_run (d : Nat → Byte) (bs : List Byte) : ∀ (base : Nat) (c : Host.Cell), c ∈ Cells.run d base bs →
    base ≤ c.1 ∧ c.1 < base + bs.length ∧ c.2 ≠ d c.1 := by
  induction bs with
  | nil => intro base c h; simp [Cells.run] at h
  | cons b bs ih =>
    intro base c h
    rw [Cells.run] at h
    split at h
    · obtain ⟨h1, h2, h3⟩ := ih _ _ h
      simp only [List.length_cons]
      exact ⟨by omega, by omega, h3⟩
    · rcases List.mem_cons.1 h with rfl | h
      · refine ⟨Nat.le_refl _, by simp, by assumption⟩
      · obtain ⟨h1, h2, h3⟩ := ih _ _ h
        simp only [List.length_cons]
        exact ⟨by omega, by omega, h3⟩

theorem Cells.run_pairwise (d : Nat → Byte) (bs : List Byte) :
    ∀ base : Nat, (Cells.run d base bs).Pairwise (fun x y => x.1 < y.1) := by
  induction bs with
  | nil => intro base; simp [Cells.run]
  | cons b bs ih =>
    intro base
    rw [Cells.run]
    split
    · exact ih _
    · refine List.pairwise_cons.2 ⟨fun c h => ?_, ih _⟩
      have := (Cells.mem_run d bs _ _ h).1
      simpa using this

theorem Cells.get_run (d : Nat → Byte) (rest : List Host.Cell) (bs : List Byte) : ∀ (base j : Nat) (hj : j < bs.length),
    (∀ c ∈ rest, c.1 ≠ base + j) → Cells.get d (Cells.run d base bs ++ rest) (base + j) = bs[j] := by
  induction bs with
  | nil => intro base j hj; simp at hj
  | cons b bs ih =>
    intro base j hj hrest
    rw [Cells.run]
    cases j with
    | zero =>
      split
      · next hb =>
        rw [Cells.get_append_of_notMem]
        · rw [Nat.add_zero] at *
          rw [Cells.get_of_notMem d rest base hrest]; simpa using hb.symm
        · intro c hc; have := (Cells.mem_run d bs _ _ hc).1; omega
      · simp [Cells.get]
    | succ j =>
      have hj' : j < bs.length := by simpa using hj
      have e : base + (j + 1) = base + 1 + j := by omega
      split
      · rw [e]; rw [e] at hrest; simpa using ih (base + 1) j hj' hrest
      · rw [List.cons_append, Cells.get, if_neg (by simp)]
        rw [e]; rw [e] at hrest; simpa using ih (base + 1) j hj' hrest

/-- A byte outside the written run reads as before. -/
theorem Cells.get_write_out (d : Nat → Byte) (m : List Host.Cell) (base : Nat) (bs : List Byte) (a : Nat)
    (h : a < base ∨ base + bs.length ≤ a) : Cells.get d (Cells.write d m base bs) a = Cells.get d m a := by
  have hrun : ∀ c ∈ Cells.run d base bs, c.1 ≠ a := by
    intro c hc; have := Cells.mem_run d bs _ _ hc; omega
  rw [Cells.write]
  rcases h with h | h
  · have hhigh : ∀ c ∈ m.filter (fun c => decide (base + bs.length ≤ c.1)), c.1 ≠ a := by
      intro c hc; have := (List.mem_filter.1 hc).2; simp at this; omega
    have key : ∀ l : List Host.Cell, (∀ c ∈ l, c.1 ≠ a) → ∀ m', Cells.get d (m' ++ l) a = Cells.get d m' a := by
      intro l hl m'
      induction m' with
      | nil => simpa [Cells.get] using Cells.get_of_notMem d l a hl
      | cons c m' ih =>
        by_cases hc : c.1 = a
        · simp [Cells.get, hc]
        · simp [Cells.get, hc, ih]
    rw [key _ hhigh, key _ hrun]
    exact Cells.get_filter_of_true d m _ a fun v => by simp [h]
  · rw [Cells.get_append_of_notMem]
    · exact Cells.get_filter_of_true d m _ a fun v => by simp [h]
    · intro c hc
      rcases List.mem_append.1 hc with hc | hc
      · have := (List.mem_filter.1 hc).2; simp at this; omega
      · exact hrun c hc

/-- A byte inside the written run reads as written. -/
theorem Cells.get_write_in (d : Nat → Byte) (m : List Host.Cell) (base : Nat) (bs : List Byte) (j : Nat) (hj : j < bs.length) :
    Cells.get d (Cells.write d m base bs) (base + j) = bs[j] := by
  rw [Cells.write, List.append_assoc, Cells.get_append_of_notMem]
  · apply Cells.get_run
    intro c hc; have := (List.mem_filter.1 hc).2; simp at this; omega
  · intro c hc; have := (List.mem_filter.1 hc).2; simp at this; omega

/-- Read after a write of one byte. -/
theorem Cells.get_set (d : Nat → Byte) (m : List Host.Cell) (k : Nat) (v : Byte) (a : Nat) :
    Cells.get d (Cells.set d m k v) a = if a = k then v else Cells.get d m a := by
  rw [Cells.set]
  split
  · next h => subst h; simpa using Cells.get_write_in d m a [v] 0 (by simp)
  · exact Cells.get_write_out d m k [v] a (by simp; omega)

/-- A write inside the store keeps the canonical form. -/
theorem Cells.wf_write {d : Nat → Byte} {size : Nat} {m : List Host.Cell} {base : Nat} {bs : List Byte}
    (h : Cells.wf d size m) (hb : base + bs.length ≤ size) : Cells.wf d size (Cells.write d m base bs) := by
  obtain ⟨hp, hm⟩ := h
  constructor
  · rw [Cells.write]
    refine List.pairwise_append.2 ⟨List.pairwise_append.2 ⟨hp.filter _, Cells.run_pairwise d bs base, ?_⟩, hp.filter _, ?_⟩
    · intro x hx y hy
      have h1 := (List.mem_filter.1 hx).2; simp at h1
      have h2 := (Cells.mem_run d bs _ _ hy).1; omega
    · intro x hx y hy
      have h2 := (List.mem_filter.1 hy).2; simp at h2
      rcases List.mem_append.1 hx with hx | hx
      · have h1 := (List.mem_filter.1 hx).2; simp at h1; omega
      · have h1 := (Cells.mem_run d bs _ _ hx).2.1; omega
  · intro c hc
    rw [Cells.write] at hc
    rcases List.mem_append.1 hc with hc | hc
    · rcases List.mem_append.1 hc with hc | hc
      · exact hm c (List.mem_filter.1 hc).1
      · obtain ⟨_, h2, h3⟩ := Cells.mem_run d bs _ _ hc
        exact ⟨by omega, h3⟩
    · exact hm c (List.mem_filter.1 hc).1

/-- Writing one byte inside the store keeps the canonical form. -/
theorem Cells.wf_set {d : Nat → Byte} {size : Nat} {m : List Host.Cell} {a : Nat} (v : Byte)
    (h : Cells.wf d size m) (ha : a < size) : Cells.wf d size (Cells.set d m a v) :=
  Cells.wf_write h (by simpa using ha)

/-! The pixel tree. -/

theorem PixTree.get_join {α : Type} [DecidableEq α] (l r : PixTree α) (n i : Nat) :
    (PixTree.join l r).get (n + 1) i = if i.testBit n then r.get n i else l.get n i := by
  cases l <;> cases r <;> simp only [PixTree.join, PixTree.get, Nat.add_sub_cancel]
  split <;> simp_all [PixTree.get]

theorem PixTree.get_halves {α : Type} (t : PixTree α) (n i : Nat) :
    t.get (n + 1) i = if i.testBit n then t.halves.2.get n i else t.halves.1.get n i := by
  cases t <;> simp [PixTree.halves, PixTree.get]

/-- The pixel that was set reads as set. -/
theorem PixTree.get_set_self {α : Type} [DecidableEq α] (v : α) (i : Nat) :
    ∀ (n : Nat) (t : PixTree α), (PixTree.set n t i v).get n i = v := by
  intro n
  induction n with
  | zero => intro t; simp [PixTree.set, PixTree.get]
  | succ n ih =>
    intro t
    rw [PixTree.set]
    split
    · next h => rw [PixTree.get_join, if_pos h]; exact ih _
    · next h => rw [PixTree.get_join, if_neg h]; exact ih _

/-- Every other pixel reads as before. -/
theorem PixTree.get_set_other {α : Type} [DecidableEq α] (v : α) (i j : Nat) :
    ∀ (n : Nat) (t : PixTree α), (∃ k < n, i.testBit k ≠ j.testBit k) → (PixTree.set n t i v).get n j = t.get n j := by
  intro n
  induction n with
  | zero => rintro t ⟨k, hk, _⟩; omega
  | succ n ih =>
    rintro t ⟨k, hk, hij⟩
    rw [PixTree.set, PixTree.get_halves t n j]
    by_cases hi : i.testBit n
    · rw [if_pos hi, PixTree.get_join]
      by_cases hj : j.testBit n
      · rw [if_pos hj, if_pos hj]
        refine ih _ ⟨k, ?_, hij⟩
        rcases Nat.lt_succ_iff_lt_or_eq.1 hk with h | h
        · exact h
        · subst h; simp [hi, hj] at hij
      · rw [if_neg hj, if_neg hj]
    · rw [if_neg hi, PixTree.get_join]
      by_cases hj : j.testBit n
      · rw [if_pos hj, if_pos hj]
      · rw [if_neg hj, if_neg hj]
        refine ih _ ⟨k, ?_, hij⟩
        rcases Nat.lt_succ_iff_lt_or_eq.1 hk with h | h
        · exact h
        · subst h; simp [hi, hj] at hij

/-- Two different numbers below `2 ^ n` differ in a bit below `n`. -/
theorem testBit_differs {n i j : Nat} (hi : i < 2 ^ n) (hj : j < 2 ^ n) (h : i ≠ j) :
    ∃ k < n, i.testBit k ≠ j.testBit k := by
  by_contra hc
  apply h
  apply Nat.eq_of_testBit_eq
  intro k
  by_cases hk : k < n
  · by_contra hne; exact hc ⟨k, hk, hne⟩
  · have hp : 2 ^ n ≤ 2 ^ k := Nat.pow_le_pow_right (by omega) (by omega)
    rw [Nat.testBit_lt_two_pow (by omega), Nat.testBit_lt_two_pow (by omega)]

theorem PixTree.wf_mono {α : Type} [DecidableEq α] (t : PixTree α) : ∀ n, t.wf n = true → t.wf (n + 1) = true := by
  induction t with
  | leaf v => intro n _; cases n <;> rfl
  | node l r ihl ihr =>
    intro n h
    cases n with
    | zero => simp [PixTree.wf] at h
    | succ n =>
      simp only [PixTree.wf, Bool.and_eq_true, decide_eq_true_eq] at h ⊢
      exact ⟨⟨ihl _ h.1.1, ihr _ h.1.2⟩, h.2⟩

theorem PixTree.wf_join {α : Type} [DecidableEq α] {l r : PixTree α} {n : Nat} (hl : l.wf n = true) (hr : r.wf n = true) :
    (PixTree.join l r).wf (n + 1) = true := by
  cases l <;> cases r <;> simp only [PixTree.join]
  · split
    · rfl
    · simp_all [PixTree.wf, PixTree.join]
  all_goals simp_all [PixTree.wf, PixTree.join]

theorem PixTree.wf_halves {α : Type} [DecidableEq α] {t : PixTree α} {n : Nat} (h : t.wf (n + 1) = true) :
    t.halves.1.wf n = true ∧ t.halves.2.wf n = true := by
  cases t with
  | leaf v => cases n <;> exact ⟨rfl, rfl⟩
  | node l r => simp only [PixTree.wf, Bool.and_eq_true] at h; exact h.1

/-- Setting a pixel keeps the canonical form. -/
theorem PixTree.wf_set {α : Type} [DecidableEq α] (i : Nat) (v : α) :
    ∀ (n : Nat) (t : PixTree α), t.wf n = true → (PixTree.set n t i v).wf n = true := by
  intro n
  induction n with
  | zero => intro t _; rfl
  | succ n ih =>
    intro t h
    obtain ⟨h1, h2⟩ := PixTree.wf_halves h
    rw [PixTree.set]
    split
    · exact PixTree.wf_join h1 (ih _ h2)
    · exact PixTree.wf_join (ih _ h1) h2

end Sys2Proof.Machine
end

