-- ==== Sys2Proof/Laws/Ppu.lean ====
section
/-!
SUPPORT. The laws of the PPU: what committing rows to the picture can change, and that every operation keeps the PPU's invariant.
-/

namespace Sys2Proof.Machine

theorem foldl_keeps {α β : Type} {P : β → Prop} {f : β → α → β} (h : ∀ b a, P b → P (f b a)) :
    ∀ (l : List α) (b : β), P b → P (l.foldl f b) := by
  intro l
  induction l with
  | nil => intro b hb; exact hb
  | cons a l ih => intro b hb; exact ih _ (h b a hb)

/-! What committing rows can change. -/

/-- `q` is `p` but for the picture: `buffer`, `pixrendered`, the tile cache's flag and the last rendered row. -/
def Ppu.SameButPicture (p q : Ppu) : Prop :=
  ∃ buf pix valid last,
    q = { p with buffer := buf, pixrendered := pix, validTileData := valid, lastRenderedScanline := last }

theorem Ppu.SameButPicture.refl (p : Ppu) : p.SameButPicture p := ⟨_, _, _, _, rfl⟩

theorem Ppu.SameButPicture.trans {p q r : Ppu} (h : p.SameButPicture q) (h' : q.SameButPicture r) : p.SameButPicture r := by
  obtain ⟨_, _, _, _, rfl⟩ := h
  obtain ⟨_, _, _, _, rfl⟩ := h'
  exact ⟨_, _, _, _, rfl⟩

theorem Ppu.spritePixel_same (cfg : Config) (p : Ppu) (i col palAdd n : Nat) :
    p.SameButPicture (p.spritePixel cfg i col palAdd n) := by
  unfold Ppu.spritePixel; dsimp only; split
  · exact ⟨_, _, _, _, rfl⟩
  · exact .refl p

theorem Ppu.spriteRow_same (cfg : Config) (p : Ppu) (i r y : Nat) : p.SameButPicture (p.spriteRow cfg i r y) := by
  unfold Ppu.spriteRow
  apply foldl_keeps (P := fun q => p.SameButPicture q) _ _ _ (.refl p)
  intro q c hq
  dsimp only; split
  · exact hq.trans (Ppu.spritePixel_same ..)
  · exact hq

theorem Ppu.renderSprite_same (cfg : Config) (st ct : Int) (behind : Bool) (p : Ppu) (i : Nat) :
    p.SameButPicture (p.renderSprite cfg st ct behind i) := by
  unfold Ppu.renderSprite; split
  · apply foldl_keeps (P := fun q => p.SameButPicture q) _ _ _ (.refl p)
    intro q r hq
    dsimp only; split
    · exact hq.trans (Ppu.spriteRow_same ..)
    · exact hq
  · exact .refl p

theorem Ppu.renderSprites_same (cfg : Config) (st ct : Int) (behind : Bool) (p : Ppu) :
    p.SameButPicture (p.renderSprites cfg st ct behind) :=
  foldl_keeps (P := fun q => p.SameButPicture q) (fun _ _ hq => hq.trans (Ppu.renderSprite_same ..)) _ _ (.refl p)

theorem Ppu.commitBackground_same (st ct : Int) (p : Ppu) : p.SameButPicture (p.commitBackground st ct) :=
  ⟨_, _, _, _, rfl⟩

/-- Committing rows changes nothing but the picture. -/
theorem Ppu.renderFramePartially_same (cfg : Config) (st ct : Int) (p : Ppu) :
    p.SameButPicture (p.renderFramePartially cfg st ct) := by
  unfold Ppu.renderFramePartially
  have h1 : p.SameButPicture (if p.f_spVisibility then p.renderSprites cfg st ct true else p) := by
    split
    · exact Ppu.renderSprites_same ..
    · exact .refl p
  generalize (if p.f_spVisibility then p.renderSprites cfg st ct true else p) = p1 at h1 ⊢
  have h2 : p1.SameButPicture (if p1.f_bgVisibility then p1.commitBackground st ct else p1) := by
    split
    · exact Ppu.commitBackground_same ..
    · exact .refl p1
  dsimp only
  generalize (if p1.f_bgVisibility then p1.commitBackground st ct else p1) = p2 at h2 ⊢
  have h3 : p2.SameButPicture (if p2.f_spVisibility then p2.renderSprites cfg st ct false else p2) := by
    split
    · exact Ppu.renderSprites_same ..
    · exact .refl p2
  generalize (if p2.f_spVisibility then p2.renderSprites cfg st ct false else p2) = p3 at h3 ⊢
  exact ((h1.trans h2).trans h3).trans ⟨_, _, _, _, rfl⟩

/-- `TriggerRendering()` changes nothing but the picture. -/
theorem Ppu.triggerRendering_same (cfg : Config) (p : Ppu) : p.SameButPicture (p.triggerRendering cfg) := by
  unfold Ppu.triggerRendering; split
  · exact (Ppu.renderFramePartially_same ..).trans ⟨_, _, _, _, rfl⟩
  · exact .refl p

/-! The invariant. -/

theorem Ppu.inv_setVram {p : Ppu} (h : p.Inv) (a : Nat) (v : Byte) : (p.setVram a v).Inv := by
  have hm : a % 0x8000 < 0x8000 := Nat.mod_lt _ (by norm_num)
  have hw : Cells.wf zeroByte 0x8000 (p.setVram a v).vram := Cells.wf_set v h.1 hm
  exact ⟨hw, h.2⟩

theorem Ppu.inv_setSprite {p : Ppu} (h : p.Inv) (i v : Byte) : (p.setSprite i v).Inv := by
  have hm : i.toNat < 0x100 := i.isLt
  have hw : Cells.wf zeroByte 0x100 (p.setSprite i v).spriteMem := Cells.wf_set v h.2.1 hm
  exact ⟨h.1, hw, h.2.2⟩

theorem statusBits_or80 : ∀ s : Byte, s &&& 0x3F = 0 → (s ||| 0x80) &&& 0x3F = 0 := by decide +kernel
theorem statusBits_and7F : ∀ s : Byte, s &&& 0x3F = 0 → (s &&& 0x7F) &&& 0x3F = 0 := by decide +kernel
theorem statusBits_or40 : ∀ s : Byte, s &&& 0x3F = 0 → (s ||| 0x40) &&& 0x3F = 0 := by decide +kernel
theorem statusBits_andBF : ∀ s : Byte, s &&& 0x3F = 0 → (s &&& 0xBF) &&& 0x3F = 0 := by decide +kernel

theorem Ppu.inv_setVblank {p : Ppu} (h : p.Inv) (b : Bool) : (p.setVblank b).Inv := by
  obtain ⟨h1, h2, h3, h4, h5, h6, h7, h8, h9⟩ := h
  refine ⟨h1, h2, h3, h4, h5, h6, h7, ?_, h9⟩
  cases b
  · exact statusBits_and7F _ h8
  · exact statusBits_or80 _ h8

theorem Ppu.inv_setSprite0Flag {p : Ppu} (h : p.Inv) (b : Bool) : (p.setSprite0Flag b).Inv := by
  obtain ⟨h1, h2, h3, h4, h5, h6, h7, h8, h9⟩ := h
  refine ⟨h1, h2, h3, h4, h5, h6, h7, ?_, h9⟩
  cases b
  · exact statusBits_andBF _ h8
  · exact statusBits_or40 _ h8

theorem Ppu.inv_vramWrite {p : Ppu} (h : p.Inv) (a : Nat) (v : Byte) : (p.vramWrite a v).Inv := by
  unfold Ppu.vramWrite; dsimp only; split
  · exact Ppu.inv_setVram (Ppu.inv_setVram h ..) ..
  · exact Ppu.inv_setVram h ..

theorem Ppu.inv_stepAddress {p : Ppu} (h : p.Inv) : p.stepAddress.Inv := h

theorem Ppu.inv_setBuffer {p : Ppu} (h : p.Inv) {b : PixTree Color} (hb : b.wf pixDepth = true) :
    ({ p with buffer := b } : Ppu).Inv := ⟨h.1, h.2.1, hb, h.2.2.2⟩

theorem Ppu.inv_bgPixel (cfg : Config) (live : Bool) (scan tile t att : Nat) {p : Ppu} (h : p.Inv) (sx : Nat) :
    (p.bgPixel cfg live scan tile t att sx).Inv := by
  obtain ⟨h1, h2, h3, h4, h5, h6⟩ := h
  unfold Ppu.bgPixel; dsimp only; split
  · split
    · exact ⟨h1, h2, h3, h4, h5, h6⟩
    · cases live
      · exact ⟨h1, h2, h3, PixTree.wf_set _ _ _ _ h4, PixTree.wf_set _ _ _ _ h5, h6⟩
      · exact ⟨h1, h2, PixTree.wf_set _ _ _ _ h3, h4, PixTree.wf_set _ _ _ _ h5, h6⟩
  · exact ⟨h1, h2, h3, h4, h5, h6⟩

theorem Ppu.inv_ite {c : Prop} [Decidable c] {p q : Ppu} (hp : p.Inv) (hq : q.Inv) : (if c then p else q).Inv := by
  split
  · exact hp
  · exact hq

theorem Ppu.inv_setCnt {p : Ppu} (h : p.Inv) (c : Loopy) : ({ p with cnt := c } : Ppu).Inv := h

theorem Ppu.inv_setValid {p : Ppu} (h : p.Inv) (b : Bool) : ({ p with validTileData := b } : Ppu).Inv := h

theorem Ppu.inv_bgTile (cfg : Config) (live : Bool) (scan : Nat) {p : Ppu} (h : p.Inv) (tile : Nat) :
    (p.bgTile cfg live scan tile).Inv := by
  have hq : (if p.validTileData then p
      else { p with scantile := p.scantile.set tile p.fetchTile.1, attrib := p.attrib.set tile p.fetchTile.2 }).Inv := by
    split
    · exact h
    · obtain ⟨h1, h2, h3, h4, h5, h6, h7, h8, h9, h10, h11⟩ := h
      exact ⟨h1, h2, h3, h4, h5, h6, h7, h8, h9, by simpa using h10, by simpa using h11⟩
  have key : ∀ q : Ppu, q.Inv → ∀ t att : Nat,
      ((List.range 8).foldl (Ppu.bgPixel cfg live scan tile t att) q).Inv := fun q hq t att =>
    foldl_keeps (P := Ppu.Inv) (fun b a hb => Ppu.inv_bgPixel cfg live scan tile t att hb a) _ _ hq
  unfold Ppu.bgTile
  apply Ppu.inv_setCnt
  apply key
  cases hv : p.validTileData
  · simpa only [hv, Bool.false_eq_true, if_false] using hq
  · simpa only [hv, if_true] using hq

theorem Ppu.inv_advanceRow {p : Ppu} (h : p.Inv) : p.advanceRow.Inv := by
  unfold Ppu.advanceRow; split <;> exact h

theorem Ppu.inv_renderBgScanline (cfg : Config) (live : Bool) (scan : Nat) {p : Ppu} (h : p.Inv) :
    (p.renderBgScanline cfg live scan).Inv := by
  have h0 := Ppu.inv_setCnt h { p.cnt with ht := p.reg.ht, h := p.reg.h }
  unfold Ppu.renderBgScanline
  apply Ppu.inv_advanceRow
  exact Ppu.inv_ite
    (Ppu.inv_setValid (foldl_keeps (P := Ppu.Inv) (fun b a hb => Ppu.inv_bgTile cfg live scan hb a) _ _ h0) true) h0

theorem Ppu.inv_spritePixel (cfg : Config) {p : Ppu} (h : p.Inv) (i col palAdd n : Nat) :
    (p.spritePixel cfg i col palAdd n).Inv := by
  obtain ⟨h1, h2, h3, h4, h5, h6⟩ := h
  unfold Ppu.spritePixel; dsimp only; split
  · exact ⟨h1, h2, PixTree.wf_set _ _ _ _ h3, h4, PixTree.wf_set _ _ _ _ h5, h6⟩
  · exact ⟨h1, h2, h3, h4, h5, h6⟩

theorem Ppu.inv_spriteRow (cfg : Config) {p : Ppu} (h : p.Inv) (i r y : Nat) : (p.spriteRow cfg i r y).Inv := by
  unfold Ppu.spriteRow
  refine foldl_keeps (P := Ppu.Inv) (fun q c hq => ?_) _ _ h
  dsimp only; split
  · exact Ppu.inv_spritePixel cfg hq ..
  · exact hq

theorem Ppu.inv_renderSprite (cfg : Config) (st ct : Int) (behind : Bool) {p : Ppu} (h : p.Inv) (i : Nat) :
    (p.renderSprite cfg st ct behind i).Inv := by
  unfold Ppu.renderSprite; split
  · refine foldl_keeps (P := Ppu.Inv) (fun q r hq => ?_) _ _ h
    dsimp only; split
    · exact Ppu.inv_spriteRow cfg hq ..
    · exact hq
  · exact h

theorem Ppu.inv_renderSprites (cfg : Config) (st ct : Int) (behind : Bool) {p : Ppu} (h : p.Inv) :
    (p.renderSprites cfg st ct behind).Inv :=
  foldl_keeps (P := Ppu.Inv) (fun _ i hq => Ppu.inv_renderSprite cfg st ct behind hq i) _ _ h

theorem Ppu.inv_commitBackground (st ct : Int) {p : Ppu} (h : p.Inv) : (p.commitBackground st ct).Inv := by
  refine Ppu.inv_setBuffer h ?_
  refine foldl_keeps (P := fun b : PixTree Color => b.wf pixDepth = true) (fun b i hb => ?_) _ _ h.2.2.1
  split
  · exact PixTree.wf_set _ _ _ _ hb
  · exact hb

theorem Ppu.inv_renderFramePartially (cfg : Config) (st ct : Int) {p : Ppu} (h : p.Inv) :
    (p.renderFramePartially cfg st ct).Inv := by
  unfold Ppu.renderFramePartially
  have h1 : (if p.f_spVisibility then p.renderSprites cfg st ct true else p).Inv := by
    split
    · exact Ppu.inv_renderSprites cfg _ _ _ h
    · exact h
  generalize (if p.f_spVisibility then p.renderSprites cfg st ct true else p) = p1 at h1 ⊢
  have h2 : (if p1.f_bgVisibility then p1.commitBackground st ct else p1).Inv := by
    split
    · exact Ppu.inv_commitBackground _ _ h1
    · exact h1
  dsimp only
  generalize (if p1.f_bgVisibility then p1.commitBackground st ct else p1) = p2 at h2 ⊢
  have h3 : (if p2.f_spVisibility then p2.renderSprites cfg st ct false else p2).Inv := by
    split
    · exact Ppu.inv_renderSprites cfg _ _ _ h2
    · exact h2
  exact h3

theorem Ppu.inv_triggerRendering (cfg : Config) {p : Ppu} (h : p.Inv) : (p.triggerRendering cfg).Inv := by
  unfold Ppu.triggerRendering; split
  · exact Ppu.inv_renderFramePartially cfg _ _ h
  · exact h

/-- A recorded sprite-0 column keeps the hit on the screen (R355). -/
theorem Ppu.sprite0Column_le {p : Ppu} {scan r x : Nat} (h : p.sprite0Column scan r = some x) : x < 256 := by
  unfold Ppu.sprite0Column at h
  simp only [Option.map_eq_some_iff] at h
  obtain ⟨c, hc, rfl⟩ := h
  have := List.find?_some hc
  simp only [Bool.and_eq_true, decide_eq_true_eq] at this
  omega

theorem Ppu.inv_checkSprite0 (scan : Int) {p : Ppu} (h : p.Inv) : (p.checkSprite0 scan).Inv := by
  obtain ⟨h1, h2, h3, h4, h5, h6, h7, h8, h9, h10⟩ := h
  refine ⟨h1, h2, h3, h4, h5, h6, h7, h8, ?_, h10⟩
  intro xy hxy
  simp only [Ppu.checkSprite0] at hxy
  split at hxy
  · next hc =>
    simp only [Option.mem_def, Option.map_eq_some_iff] at hxy
    obtain ⟨x, hx, rfl⟩ := hxy
    exact ⟨Ppu.sprite0Column_le hx, by omega⟩
  · simp at hxy

theorem Ppu.inv_startFrame (cfg : Config) {p : Ppu} (h : p.Inv) : (p.startFrame cfg).Inv :=
  ⟨h.1, h.2.1, rfl, h.2.2.2.1, rfl, h.2.2.2.2.2⟩

theorem blankPixels_wf {b : PixTree Color} (h : b.wf pixDepth = true) (is : List Nat) :
    (blankPixels b is).wf pixDepth = true :=
  foldl_keeps (P := fun b : PixTree Color => b.wf pixDepth = true) (fun b i hb => PixTree.wf_set i 0 _ b hb) _ _ h

theorem wf_ite {c : Prop} [Decidable c] {a b : PixTree Color} (ha : a.wf pixDepth = true) (hb : b.wf pixDepth = true) :
    (if c then a else b).wf pixDepth = true := by
  split
  · exact ha
  · exact hb

theorem Ppu.inv_clipFrame (cfg : Config) {p : Ppu} (h : p.Inv) : (p.clipFrame cfg).Inv := by
  refine Ppu.inv_setBuffer h ?_
  have key := wf_ite (c := (cfg.clipToTvSize || !p.f_bgClipping || !p.f_spClipping) = true)
    (blankPixels_wf h.2.2.1 leftColumns) h.2.2.1
  exact wf_ite (blankPixels_wf key _) key

theorem Ppu.inv_setLast {p : Ppu} (h : p.Inv) (n : Int) : ({ p with lastRenderedScanline := n } : Ppu).Inv := h

theorem Ppu.inv_startVBlank (cfg : Config) {p : Ppu} (h : p.Inv) : (p.startVBlank cfg).Inv := by
  unfold Ppu.startVBlank
  apply Ppu.inv_setLast
  apply Ppu.inv_clipFrame
  exact Ppu.inv_ite (Ppu.inv_renderFramePartially cfg _ _ h) h

theorem Ppu.inv_endPrerenderScanline (cfg : Config) {p : Ppu} (h : p.Inv) : (p.endPrerenderScanline cfg).Inv := by
  unfold Ppu.endPrerenderScanline
  have h0 := Ppu.inv_setSprite0Flag (Ppu.inv_setVblank h false) false
  obtain ⟨h1, h2, h3, h4, h5, h6, h7, h8, _, h10⟩ := h0
  have hq : ({ (p.setVblank false).setSprite0Flag false with hitSpr0 := false, spr0Hit := none } : Ppu).Inv :=
    ⟨h1, h2, h3, h4, h5, h6, h7, h8, by intro xy hxy; exact absurd hxy (by simp), h10⟩
  generalize ({ (p.setVblank false).setSprite0Flag false with hitSpr0 := false, spr0Hit := none } : Ppu) = q at hq ⊢
  dsimp only
  have hr : (if (q.f_bgVisibility || q.f_spVisibility) = true then
      (if ({ q with cnt := q.reg } : Ppu).f_bgVisibility = true then
        ({ q with cnt := q.reg } : Ppu).renderBgScanline cfg true 0 else { q with cnt := q.reg }) else q).Inv := by
    split
    · split
      · exact Ppu.inv_renderBgScanline cfg _ _ hq
      · exact hq
    · exact hq
  dsimp only at hr
  generalize (ite ((q.f_bgVisibility || q.f_spVisibility) = true) _ q) = q' at hr ⊢
  cases hb : q'.f_bgVisibility && q'.f_spVisibility
  · simpa only [hb, Bool.false_eq_true, if_false] using hr
  · simpa only [hb, if_true] using Ppu.inv_checkSprite0 _ hr

theorem Ppu.inv_endVisibleScanline (cfg : Config) (s : Nat) {p : Ppu} (h : p.Inv) : (p.endVisibleScanline cfg s).Inv := by
  unfold Ppu.endVisibleScanline; split
  · have hr : (if p.scanlineAlreadyRendered then p
        else ({ p with cnt := { p.cnt with ht := p.reg.ht, h := p.reg.h } } : Ppu).renderBgScanline cfg false (s - 20)).Inv := by
      split
      · exact h
      · exact Ppu.inv_renderBgScanline cfg _ _ h
    dsimp only
    generalize (if p.scanlineAlreadyRendered then p
        else ({ p with cnt := { p.cnt with ht := p.reg.ht, h := p.reg.h } } : Ppu).renderBgScanline cfg false (s - 20)) = q at hr ⊢
    split
    · split
      · exact Ppu.inv_checkSprite0 (p := { q with scanlineAlreadyRendered := false }) _ hr
      · exact Ppu.inv_checkSprite0 (p := { q with scanlineAlreadyRendered := false }) _ hr
    · exact hr
  · exact h

theorem Ppu.inv_endScanline (cfg : Config) {p : Ppu} (h : p.Inv) : (p.endScanline cfg).Inv := by
  have key : ∀ q : Ppu, q.Inv → ∀ n, n ≤ 261 → ({ q with scanline := n } : Ppu).Inv := by
    intro q ⟨h1, h2, h3, h4, h5, h6, _, h8⟩ n hn
    exact ⟨h1, h2, h3, h4, h5, h6, hn, h8⟩
  have hs := h.2.2.2.2.2.2.1
  unfold Ppu.endScanline
  refine key _ ?_ _ (by split <;> omega)
  split
  · obtain ⟨h1, h2, h3, h4, h5, h6, h7⟩ := h
    refine ⟨h1, h2, h3, h4, h5, ?_, h7⟩
    simp only [Ppu.endDummyScanline]; split <;> omega
  · split
    · exact Ppu.inv_endPrerenderScanline cfg h
    · split
      · exact Ppu.inv_endVisibleScanline cfg _ h
      · split
        · exact Ppu.inv_setVblank h true
        · exact h

theorem Ppu.inv_dotSprite0 {p : Ppu} (h : p.Inv) : p.dotSprite0.Inv := by
  unfold Ppu.dotSprite0; split
  · exact Ppu.inv_setSprite0Flag h true
  · exact h

theorem Ppu.inv_dotCountdown (cfg : Config) {p : Ppu} (h : p.Inv) : (p.dotCountdown cfg).1.Inv := by
  unfold Ppu.dotCountdown; dsimp only; split
  · split
    · exact Ppu.inv_startVBlank (p := { p with nmiCounter := p.nmiCounter - 1, requestEndFrame := false }) cfg h
    · exact h
  · exact h

/-- Every dot keeps the PPU's invariant. -/
theorem Ppu.inv_dot (cfg : Config) {p : Ppu} (h : p.Inv) : (p.dot cfg).ppu.Inv := by
  have hd := Ppu.inv_dotCountdown cfg (Ppu.inv_dotSprite0 h)
  unfold Ppu.dot
  generalize p.dotSprite0.dotCountdown cfg = pd at hd ⊢
  have hx := hd.2.2.2.2.2.1
  dsimp only
  split
  · apply Ppu.inv_endScanline cfg
    obtain ⟨h1, h2, h3, h4, h5, _, h7⟩ := hd
    exact ⟨h1, h2, h3, h4, h5, by simp, h7⟩
  · obtain ⟨h1, h2, h3, h4, h5, _, h7⟩ := hd
    exact ⟨h1, h2, h3, h4, h5, by simp only at *; omega, h7⟩

theorem Ppu.inv_writeControl1 (cfg : Config) {p : Ppu} (h : p.Inv) (v : Byte) : (p.writeControl1 cfg v).Inv :=
  Ppu.inv_triggerRendering cfg h

theorem Ppu.inv_writeControl2 (cfg : Config) {p : Ppu} (h : p.Inv) (v : Byte) : (p.writeControl2 cfg v).Inv :=
  Ppu.inv_triggerRendering cfg h

theorem Ppu.inv_readStatus {p : Ppu} (h : p.Inv) : p.readStatus.2.Inv := Ppu.inv_setVblank (p := { p with firstWrite := true }) h false

theorem Ppu.inv_writeSpriteData {p : Ppu} (h : p.Inv) (v : Byte) : (p.writeSpriteData v).Inv := by
  unfold Ppu.writeSpriteData; dsimp only
  split
  · exact Ppu.inv_checkSprite0 (p := p.setSprite p.sramAddress v) _ (Ppu.inv_setSprite h ..)
  · exact Ppu.inv_setSprite h p.sramAddress v

theorem Ppu.inv_writeScroll (cfg : Config) {p : Ppu} (h : p.Inv) (v : Byte) : (p.writeScroll cfg v).Inv := by
  have ht := Ppu.inv_triggerRendering cfg h
  unfold Ppu.writeScroll; dsimp only; split <;> exact ht

theorem Ppu.inv_writeAddress (cfg : Config) {p : Ppu} (h : p.Inv) (v : Byte) : (p.writeAddress cfg v).Inv := by
  have ht := Ppu.inv_triggerRendering cfg h
  unfold Ppu.writeAddress; dsimp only; split
  · exact h
  · let reg : Loopy := { (p.triggerRendering cfg).reg with
      vt := (p.triggerRendering cfg).reg.vt.extractLsb' 3 2 ++ v.extractLsb' 5 3, ht := v.extractLsb' 0 5 }
    exact Ppu.inv_checkSprite0 (p := { p.triggerRendering cfg with reg := reg, cnt := reg }) _ ht

theorem Ppu.inv_readDataByte {p : Ppu} (h : p.Inv) : p.readDataByte.2.Inv := by
  unfold Ppu.readDataByte; dsimp only; split <;> exact h

theorem Ppu.inv_writeDataByte (cfg : Config) {p : Ppu} (h : p.Inv) (v : Byte) : (p.writeDataByte cfg v).Inv := by
  have ht := Ppu.inv_triggerRendering cfg h
  unfold Ppu.writeDataByte; dsimp only; split
  · exact Ppu.inv_vramWrite ht ..
  · exact Ppu.inv_setVram ht ..

theorem Ppu.inv_spriteDma {p : Ppu} (h : p.Inv) (bytes : List Byte) : (p.spriteDma bytes).Inv := by
  unfold Ppu.spriteDma
  exact Ppu.inv_checkSprite0 _ (foldl_keeps (P := Ppu.Inv) (fun _ _ hq => Ppu.inv_setSprite hq ..) _ _ h)

theorem Ppu.inv_setMirroring (cfg : Config) {p : Ppu} (h : p.Inv) (m : Mirroring) : (p.setMirroring cfg m).Inv := by
  unfold Ppu.setMirroring; split
  · exact h
  · exact Ppu.inv_triggerRendering cfg h

theorem Ppu.inv_reset (cfg : Config) : (Ppu.reset cfg).Inv := by
  refine ⟨⟨by simp [Ppu.reset], by simp [Ppu.reset]⟩, ⟨by simp [Ppu.reset], by simp [Ppu.reset]⟩, rfl, rfl, rfl, ?_⟩
  exact ⟨by simp [Ppu.reset], by simp [Ppu.reset], by simp [Ppu.reset], by simp [Ppu.reset], by simp [Ppu.reset],
    by simp [Ppu.reset]⟩

end Sys2Proof.Machine
end

