-- ==== Sys2Proof/Laws/Bus.lean ====
section
/-!
SUPPORT. The laws of the bus: every operation that a bus access, a dot or an APU step is made of leaves the configuration and the
cartridge alone and keeps the invariant; what a read gives and what a store can change, with a mapper type of the spec.
-/

namespace Sys2Proof.Machine

/-- What every operation on the bus keeps: the configuration, the cartridge, and the invariant. -/
def Bus.Keeps (b b' : Bus) : Prop := b'.cfg = b.cfg ∧ b'.cart = b.cart ∧ (b.Inv → b'.Inv)

theorem Bus.Keeps.refl (b : Bus) : b.Keeps b := ⟨rfl, rfl, id⟩

theorem Bus.Keeps.trans {b c d : Bus} (h : b.Keeps c) (h' : c.Keeps d) : b.Keeps d :=
  ⟨h'.1.trans h.1, h'.2.1.trans h.2.1, fun hi => h'.2.2 (h.2.2 hi)⟩

theorem Bus.Keeps.ite {c : Prop} [Decidable c] {b x y : Bus} (hx : b.Keeps x) (hy : b.Keeps y) :
    b.Keeps (if c then x else y) := by
  split
  · exact hx
  · exact hy

/-- An open kind's presence depends on the configuration and the cartridge alone. -/
theorem Bus.Keeps.closed {b b' : Bus} (h : b.Keeps b') (hc : b.closedMapper) : b'.closedMapper := by
  unfold Bus.closedMapper Bus.openKind at *
  rw [h.1, h.2.1]; exact hc

theorem Bus.keeps_ppu (b : Bus) {q : Ppu} (h : b.ppu.Inv → q.Inv) : b.Keeps { b with ppu := q } :=
  ⟨rfl, rfl, fun hi => ⟨hi.1, h hi.2.1, hi.2.2.1, hi.2.2.2⟩⟩

theorem Bus.keeps_apu (b : Bus) {a : Apu} (h : b.apu.Inv → a.Inv) : b.Keeps { b with apu := a } :=
  ⟨rfl, rfl, fun hi => ⟨hi.1, hi.2.1, h hi.2.2.1, hi.2.2.2⟩⟩

theorem Bus.keeps_pads (b : Bus) {p : Pads} (h : b.pads.Inv → p.Inv) : b.Keeps { b with pads := p } :=
  ⟨rfl, rfl, fun hi => ⟨hi.1, hi.2.1, hi.2.2.1, h hi.2.2.2⟩⟩

theorem Bus.keeps_mem (b : Bus) {m : List Host.Cell} (h : Memory.wf b.cfg b.mem → Memory.wf b.cfg m) :
    b.Keeps { b with mem := m } :=
  ⟨rfl, rfl, fun hi => ⟨h hi.1, hi.2.1, hi.2.2.1, hi.2.2.2⟩⟩

theorem Bus.keeps_irq (b : Bus) (q : Irq) : b.Keeps { b with irq := q } := ⟨rfl, rfl, id⟩

theorem Bus.keeps_halt (b : Bus) (n : Nat) : b.Keeps { b with haltCycles := n } := ⟨rfl, rfl, id⟩

theorem Bus.keeps_mapper (b : Bus) (r : MapperRegs) : b.Keeps { b with mapper := r } := ⟨rfl, rfl, id⟩

theorem Bus.keeps_events (b : Bus) (e : List HostEvent) : b.Keeps { b with events := e } := ⟨rfl, rfl, id⟩

theorem Bus.keeps_requestIrq (b : Bus) (k : IrqKind) : b.Keeps (b.requestIrq k) := b.keeps_irq _

theorem Bus.keeps_addHalt (b : Bus) (n : Nat) : b.Keeps (b.addHalt n) := b.keeps_halt _

theorem Bus.keeps_setMem (b : Bus) {a : Nat} (v : Byte) (ha : a < 0x10000) : b.Keeps (b.setMem a v) :=
  b.keeps_mem fun h => Cells.wf_set v h ha

/-! The mapper. -/

theorem Bus.keeps_copyProgram (b : Bus) (address : Nat) (bytes : List Byte) : b.Keeps (b.copyProgram address bytes) := by
  unfold Bus.copyProgram; split
  · next h => exact b.keeps_mem fun hm => Cells.wf_write hm h.2
  · exact .refl b

theorem Bus.keeps_loadRomBank (b : Bus) (bank address : Nat) : b.Keeps (b.loadRomBank bank address) :=
  b.keeps_copyProgram ..

theorem Bus.keeps_load32kRomBank (b : Bus) (bank address : Nat) : b.Keeps (b.load32kRomBank bank address) :=
  (b.keeps_loadRomBank ..).trans (Bus.keeps_loadRomBank ..)

theorem Bus.keeps_load8kRomBank (b : Bus) (bank address : Nat) : b.Keeps (b.load8kRomBank bank address) :=
  b.keeps_copyProgram ..

theorem Bus.keeps_triggerRendering (b : Bus) : b.Keeps b.triggerRendering :=
  b.keeps_ppu (Ppu.inv_triggerRendering b.cfg)

theorem Bus.keeps_copyPattern (b : Bus) (address : Nat) (bytes : List Byte) : b.Keeps (b.copyPattern address bytes) := by
  unfold Bus.copyPattern; split
  · next h => exact b.keeps_ppu fun hp => ⟨Cells.wf_write hp.1 (by omega), hp.2⟩
  · exact .refl b

theorem Bus.keeps_loadPattern (b : Bus) (size k address : Nat) : b.Keeps (b.loadPattern size k address) := by
  unfold Bus.loadPattern; split
  · exact .refl b
  · exact b.keeps_triggerRendering.trans (Bus.keeps_copyPattern ..)

theorem Bus.keeps_load8kVromBank (b : Bus) (bank address : Nat) : b.Keeps (b.load8kVromBank bank address) := by
  unfold Bus.load8kVromBank; split
  · exact .refl b
  · exact (b.keeps_triggerRendering.trans (Bus.keeps_loadPattern ..)).trans (Bus.keeps_loadPattern ..)

theorem Bus.keeps_setMirroring (b : Bus) (m : Mirroring) : b.Keeps (b.setMirroring m) :=
  b.keeps_ppu fun h => Ppu.inv_setMirroring b.cfg h m

theorem Bus.keeps_runAction (addr value : Nat) (act : MapAction) : ∀ b : Bus, b.Keeps (runAction addr value act b) := by
  induction act with
  | loadRomBank => intro b; exact b.keeps_loadRomBank ..
  | load32kRomBank => intro b; exact b.keeps_load32kRomBank ..
  | load8kRomBank => intro b; exact b.keeps_load8kRomBank ..
  | loadVromBank => intro b; exact b.keeps_loadPattern ..
  | load8kVromBank => intro b; exact b.keeps_load8kVromBank ..
  | load2kVromBank => intro b; exact b.keeps_loadPattern ..
  | load1kVromBank => intro b; exact b.keeps_loadPattern ..
  | setMirroring => intro b; exact b.keeps_setMirroring _
  | setReg => intro b; exact b.keeps_mapper _
  | setIrqCounter => intro b; exact b.keeps_mapper _
  | setIrqLatch => intro b; exact b.keeps_mapper _
  | setIrqEnable => intro b; exact b.keeps_mapper _
  | onlyIf c act ih => intro b; exact .ite (.refl b) (ih b)

theorem Bus.keeps_runActions (acts : List MapAction) (addr value : Nat) (b : Bus) :
    b.Keeps (runActions acts addr value b) := by
  unfold runActions
  exact foldl_keeps (P := fun c => b.Keeps c) (fun c act hc => hc.trans (Bus.keeps_runAction ..)) _ _ (.refl b)

theorem Bus.keeps_runEffect (addr value : Nat) (e : MapEffect) : ∀ b : Bus, b.Keeps (runEffect addr value e b) := by
  induction e with
  | act a => intro b; exact b.keeps_runAction ..
  | storeMem a v => intro b; exact b.keeps_setMem _ (Nat.mod_lt _ (by decide))
  | persist => intro b; exact b.keeps_events _
  | onlyIf c e ih => intro b; exact .ite (.refl b) (ih b)

theorem Bus.keeps_runEffects (effects : List MapEffect) (addr value : Nat) (b : Bus) :
    b.Keeps (runEffects effects addr value b) := by
  unfold runEffects
  exact foldl_keeps (P := fun c => b.Keeps c) (fun c e hc => hc.trans (Bus.keeps_runEffect ..)) _ _ (.refl b)

theorem Bus.keeps_fixLast (b : Bus) : b.Keeps b.fixLast := by
  unfold Bus.fixLast; split
  · exact (b.keeps_load8kRomBank ..).trans (Bus.keeps_mapper ..)
  · exact .refl b

theorem Bus.keeps_mmc3Execute (b : Bus) (cmd : BitVec 3) (arg : Nat) : b.Keeps (b.mmc3Execute cmd arg) := by
  have two : ∀ k1 a1 k2 a2, b.Keeps ((b.load1kVromBank k1 a1).load1kVromBank k2 a2) := fun _ _ _ _ =>
    (b.keeps_loadPattern ..).trans (Bus.keeps_loadPattern ..)
  have one : ∀ k a, b.Keeps (b.load1kVromBank k a) := fun _ _ => b.keeps_loadPattern ..
  unfold Bus.mmc3Execute
  exact .ite (two ..) (.ite (two ..) (.ite (one ..) (.ite (one ..) (.ite (one ..) (.ite (one ..) (.ite
    (b.keeps_fixLast.trans (Bus.keeps_load8kRomBank ..))
    ((b.keeps_load8kRomBank ..).trans (Bus.keeps_fixLast _))))))))

theorem Bus.keeps_mmc3Write (b : Bus) (address : Word) (v : Byte) : b.Keeps (b.mmc3Write address v) := by
  unfold Bus.mmc3Write
  exact .ite (b.keeps_mapper _) (.ite (b.keeps_mmc3Execute ..) (.ite (b.keeps_setMirroring _) (.ite (b.keeps_mapper _)
    (.ite (b.keeps_mapper _) (.ite (b.keeps_mapper _) (.ite (b.keeps_mapper _) (.refl b)))))))

theorem Bus.keeps_kindWrite (b : Bus) (address : Word) (v : Byte) : b.Keeps (b.kindWrite address v) := by
  unfold Bus.kindWrite
  refine .ite (b.keeps_setMem v address.isLt) (.ite (b.keeps_loadRomBank ..) (.ite (b.keeps_load8kVromBank ..)
    (.ite (b.keeps_mmc3Write ..) (.ite ((b.keeps_load32kRomBank ..).trans (Bus.keeps_setMirroring ..)) ?_))))
  split
  · exact .refl b
  · exact b.keeps_runActions ..

theorem Bus.keeps_clockIrqCounter (b : Bus) : b.Keeps b.clockIrqCounter := by
  unfold Bus.clockIrqCounter
  exact .ite (.ite ((b.keeps_requestIrq _).trans (Bus.keeps_mapper ..)) (b.keeps_mapper _)) (.refl b)

theorem Bus.keeps_latchAccess (b : Bus) (address : Nat) : b.Keeps (b.latchAccess address) := by
  unfold Bus.latchAccess; split
  · exact .refl b
  · exact b.keeps_runActions ..

theorem Bus.keeps_latchPattern (b : Bus) (address : Nat) : b.Keeps (b.latchPattern address) :=
  .ite (b.keeps_latchAccess _) (.refl b)

theorem Bus.keeps_loadInitialPrg (b : Bus) : b.Keeps b.loadInitialPrg := by
  have two : ∀ k1 a1 k2 a2, b.Keeps ((b.loadRomBank k1 a1).loadRomBank k2 a2) := fun _ _ _ _ =>
    (b.keeps_loadRomBank ..).trans (Bus.keeps_loadRomBank ..)
  unfold Bus.loadInitialPrg
  refine .ite (two ..) (.ite ?_ ?_)
  · exact (((b.keeps_load8kRomBank ..).trans (Bus.keeps_load8kRomBank ..)).trans (Bus.keeps_load8kRomBank ..)).trans
      (Bus.keeps_load8kRomBank ..)
  · split
    · exact b.keeps_runActions ..
    · exact .ite (two ..) (two ..)

theorem Bus.keeps_loadInitialChr (b : Bus) : b.Keeps b.loadInitialChr := by
  have two : ∀ k1 a1 k2 a2, b.Keeps ((b.loadVromBank k1 a1).loadVromBank k2 a2) := fun _ _ _ _ =>
    (b.keeps_loadPattern ..).trans (Bus.keeps_loadPattern ..)
  unfold Bus.loadInitialChr; split
  · exact b.keeps_runActions ..
  · exact .ite (.refl b) (.ite (two ..) (two ..))

theorem Bus.keeps_loadBatteryRam (b : Bus) (image : Option (List Byte)) : b.Keeps (b.loadBatteryRam image) := by
  unfold Bus.loadBatteryRam; split
  · exact .refl b
  · split
    · next h => exact b.keeps_mem fun hm => Cells.wf_write hm (by rw [h.2]; omega)
    · exact .refl b

theorem Bus.keeps_mapperLoad (b : Bus) (image : Option (List Byte)) : b.Keeps (b.mapperLoad image) :=
  ((b.keeps_loadInitialPrg.trans (Bus.keeps_loadInitialChr _)).trans (Bus.keeps_loadBatteryRam ..)).trans
    (Bus.keeps_requestIrq ..)

/-! The CPU bus. -/

theorem Pads.inv_read1 {p : Pads} (h : p.Inv) : p.read1.2.Inv := ⟨Nat.mod_lt _ (by omega), h.2⟩

theorem Pads.inv_read2 {p : Pads} (buffer : PixTree Color) (h : p.Inv) : (p.read2 buffer).2.Inv :=
  ⟨h.1, Nat.mod_lt _ (by omega)⟩

theorem Pads.inv_writeStrobe {p : Pads} (v : Byte) (h : p.Inv) : (p.writeStrobe v).Inv := by
  unfold Pads.writeStrobe; split
  · exact ⟨by simp, by simp⟩
  · exact h

theorem Bus.keeps_readPort (b : Bus) (p : Nat) : b.Keeps (b.readPort p).2 := by
  unfold Bus.readPort
  repeat' split
  · exact .refl b
  · exact .refl b
  · exact b.keeps_ppu Ppu.inv_readStatus
  · exact .refl b
  · exact ((b.keeps_ppu Ppu.inv_readDataByte).trans (Bus.keeps_latchPattern ..)).trans
      (Bus.keeps_ppu _ Ppu.inv_stepAddress)
  · exact .refl b

theorem Bus.keeps_writePort (b : Bus) (p : Nat) (v : Byte) : b.Keeps (b.writePort p v) := by
  unfold Bus.writePort
  refine .ite ?_ (.ite ?_ (.ite ?_ (.ite ?_ (.ite ?_ (.ite ?_ (.ite ?_ (.refl b)))))))
  · exact (b.keeps_setMem v (by decide)).trans
      (Bus.keeps_ppu (b.setMem 0x2000 v) fun h => Ppu.inv_writeControl1 b.cfg h v)
  · exact (b.keeps_setMem v (by decide)).trans
      (Bus.keeps_ppu (b.setMem 0x2001 v) fun h => Ppu.inv_writeControl2 b.cfg h v)
  · exact b.keeps_ppu fun h => h
  · exact b.keeps_ppu fun h => Ppu.inv_writeSpriteData h v
  · exact b.keeps_ppu fun h => Ppu.inv_writeScroll b.cfg h v
  · exact (b.keeps_ppu fun h => Ppu.inv_writeAddress b.cfg h v).trans (Bus.keeps_latchPattern ..)
  · exact ((b.keeps_ppu fun h => Ppu.inv_writeDataByte b.cfg h v).trans (Bus.keeps_latchPattern ..)).trans
      (Bus.keeps_ppu _ Ppu.inv_stepAddress)

theorem Bus.keeps_spriteDma (b : Bus) (v : Byte) : b.Keeps (b.spriteDma v) :=
  (b.keeps_ppu fun h => Ppu.inv_spriteDma h _).trans (Bus.keeps_addHalt ..)

theorem Bus.keeps_readHigh (b : Bus) (a : Nat) : b.Keeps (b.readHigh a).2 := by
  unfold Bus.readHigh; split
  · exact .refl b
  · exact b.keeps_runEffects ..

/-- A CPU read leaves the configuration and the cartridge alone and keeps the invariant. -/
theorem Bus.keeps_read (b : Bus) (addr : Word) : b.Keeps (b.read addr).2 := by
  unfold Bus.read; dsimp only
  repeat' split
  · exact .refl b
  · exact b.keeps_readPort _
  · exact .refl b
  · exact b.keeps_apu Apu.inv_readStatus
  · exact b.keeps_pads Pads.inv_read1
  · exact b.keeps_pads (Pads.inv_read2 _)
  · exact b.keeps_readHigh _

theorem Bus.keeps_writeLow (b : Bus) (addr : Word) (v : Byte) : b.Keeps (b.writeLow addr v) := by
  unfold Bus.writeLow; split
  · exact b.keeps_runEffects ..
  · split
    · exact b.keeps_setMem v addr.isLt
    · exact (b.keeps_setMem v addr.isLt).trans (Bus.keeps_events (b.setMem addr.toNat v) _)

/-- A CPU write leaves the configuration and the cartridge alone and keeps the invariant. -/
theorem Bus.keeps_write (b : Bus) (addr : Word) (v : Byte) : b.Keeps (b.write addr v) := by
  unfold Bus.write
  refine .ite (b.keeps_setMem v (by omega)) (.ite (b.keeps_writePort ..) (.ite (b.keeps_spriteDma _) (.ite ?_ (.ite ?_
    (.ite (b.keeps_writeLow ..) (b.keeps_kindWrite ..))))))
  · exact b.keeps_pads (Pads.inv_writeStrobe v)
  · exact b.keeps_apu fun h => Apu.inv_write h _ v

/-! The APU on the bus. -/

theorem Bus.keeps_setDmc (b : Bus) {d : Dmc} (h : b.apu.dmc.deltaCounter ≤ 63 → d.deltaCounter ≤ 63) :
    b.Keeps (b.setDmc d) :=
  b.keeps_apu fun hi => Apu.inv_setDmc hi (h hi.2.2)

theorem Bus.keeps_nextSample (b : Bus) : b.Keeps b.nextSample := by
  unfold Bus.nextSample
  exact ((b.keeps_read _).trans (Bus.keeps_addHalt ..)).trans (Bus.keeps_setDmc _ (by exact id))

theorem Bus.keeps_endOfSample (b : Bus) : b.Keeps b.endOfSample := by
  unfold Bus.endOfSample
  have h0 := b.keeps_setDmc Dmc.delta_restart
  refine h0.trans (.ite ?_ (.refl _))
  exact (Bus.keeps_nextSample _).trans (Bus.keeps_setDmc _ Dmc.delta_flagEnd)

theorem Bus.keeps_dmcCount (b : Bus) : b.Keeps b.dmcCount := by
  unfold Bus.dmcCount
  have h0 := b.keeps_setDmc (d := { b.apu.dmc with dmaCounter := b.apu.dmc.dmaCounter - 1 }) id
  refine h0.trans (.ite ?_ (.refl _))
  exact ((Bus.keeps_setDmc _ (by exact id)).trans (Bus.keeps_endOfSample _)).trans (Bus.keeps_setDmc _ (by exact id))

theorem Bus.keeps_clockDmc (b : Bus) : b.Keeps b.clockDmc := by
  unfold Bus.clockDmc
  have h0 := (b.keeps_setDmc Dmc.delta_outputBit).trans (Bus.keeps_dmcCount _)
  exact h0.trans (.ite (Bus.keeps_requestIrq ..) (.refl _))

theorem Bus.keeps_dmcLoop : ∀ (fuel : Nat) (b : Bus), b.Keeps (Bus.dmcLoop fuel b) := by
  intro fuel
  induction fuel with
  | zero => intro b; exact .refl b
  | succ fuel ih =>
    intro b
    exact .ite (((Bus.keeps_setDmc _ (by exact id)).trans (Bus.keeps_clockDmc _)).trans (ih _)) (.refl b)

theorem Bus.keeps_clockDmcTimer (b : Bus) (n : Nat) : b.Keeps (b.clockDmcTimer n) := by
  unfold Bus.clockDmcTimer
  exact .ite ((Bus.keeps_setDmc _ (by exact id)).trans (Bus.keeps_dmcLoop ..)) (.refl b)

theorem Bus.keeps_requestFrameIrq (b : Bus) : b.Keeps b.requestFrameIrq := .ite (b.keeps_requestIrq _) (.refl b)

theorem Bus.keeps_apuOutput (b : Bus) (n : Nat) : b.Keeps (b.apuOutput n) := by
  unfold Bus.apuOutput
  exact (b.keeps_apu fun h => Apu.inv_advanceSampleTimer b.cfg
    (Apu.inv_accumulate (Apu.inv_advanceSequencer b.cfg h n) n) n).trans (Bus.keeps_events ..)

theorem Bus.keeps_apuAdvance (b : Bus) (n : Nat) : b.Keeps (b.apuAdvance n) := by
  unfold Bus.apuAdvance
  exact (((b.keeps_clockDmcTimer n).trans (Bus.keeps_apu _ fun h => Apu.inv_clockTimers h n)).trans
    (Bus.keeps_requestFrameIrq _)).trans (Bus.keeps_apuOutput ..)

/-- An APU step leaves the configuration and the cartridge alone and keeps the invariant. -/
theorem Bus.keeps_apuStep (b : Bus) (n : Nat) : b.Keeps (b.apuStep n) := by
  unfold Bus.apuStep
  exact .ite (b.keeps_apu fun h => Apu.inv_initWindow h n)
    ((b.keeps_apu fun h => Apu.inv_clamp b.cfg (Apu.inv_initWindow h n) n).trans (Bus.keeps_apuAdvance ..))

/-! The dots. -/

theorem Bus.keeps_dot (b : Bus) : b.Keeps b.dot.1 := by
  unfold Bus.dot
  have h0 := b.keeps_ppu (Ppu.inv_dot b.cfg)
  generalize b.ppu.dot b.cfg = r at h0
  have h1 := h0.trans (Bus.Keeps.ite (c := r.frameDone = true)
    ((Bus.keeps_requestIrq { b with ppu := r.ppu } .nonMaskable).trans
      (Bus.keeps_events _ (.frame r.picture :: b.events))) (.refl _))
  exact h1.trans (.ite (Bus.keeps_clockIrqCounter _) (.refl _))

/-- Any number of dots leaves the configuration and the cartridge alone and keeps the invariant. -/
theorem Bus.keeps_dots : ∀ (k : Nat) (b : Bus), b.Keeps (Bus.dots k b).1 := by
  intro k
  induction k with
  | zero => intro b; exact .refl b
  | succ k ih =>
    intro b
    simp only [Bus.dots]
    split
    · exact b.keeps_dot
    · exact b.keeps_dot.trans (ih _)

end Sys2Proof.Machine
end

