-- ==== Sys2Proof/Laws/State.lean ====
section
/-!
SUPPORT. One lemma for each field of the state under each update, so that no later proof unfolds a record update.
-/

namespace Sys2Proof.Machine

variable (s : State)

@[simp] theorem State.setA_cpu (v : Byte) : (s.setA v).cpu = { s.cpu with a := v } := rfl
@[simp] theorem State.setA_toBus (v : Byte) : (s.setA v).toBus = s.toBus := rfl
@[simp] theorem State.setA_halted (v : Byte) : (s.setA v).halted = s.halted := rfl
@[simp] theorem State.setA_loaded (v : Byte) : (s.setA v).loaded = s.loaded := rfl
@[simp] theorem State.setA_stepCycles (v : Byte) : (s.setA v).stepCycles = s.stepCycles := rfl
@[simp] theorem State.setA_inFrame (v : Byte) : (s.setA v).inFrame = s.inFrame := rfl
@[simp] theorem State.setA_hostCalls (v : Byte) : (s.setA v).hostCalls = s.hostCalls := rfl

@[simp] theorem State.setX_cpu (v : Byte) : (s.setX v).cpu = { s.cpu with x := v } := rfl
@[simp] theorem State.setX_toBus (v : Byte) : (s.setX v).toBus = s.toBus := rfl
@[simp] theorem State.setX_halted (v : Byte) : (s.setX v).halted = s.halted := rfl
@[simp] theorem State.setX_loaded (v : Byte) : (s.setX v).loaded = s.loaded := rfl
@[simp] theorem State.setX_stepCycles (v : Byte) : (s.setX v).stepCycles = s.stepCycles := rfl
@[simp] theorem State.setX_inFrame (v : Byte) : (s.setX v).inFrame = s.inFrame := rfl
@[simp] theorem State.setX_hostCalls (v : Byte) : (s.setX v).hostCalls = s.hostCalls := rfl

@[simp] theorem State.setY_cpu (v : Byte) : (s.setY v).cpu = { s.cpu with y := v } := rfl
@[simp] theorem State.setY_toBus (v : Byte) : (s.setY v).toBus = s.toBus := rfl
@[simp] theorem State.setY_halted (v : Byte) : (s.setY v).halted = s.halted := rfl
@[simp] theorem State.setY_loaded (v : Byte) : (s.setY v).loaded = s.loaded := rfl
@[simp] theorem State.setY_stepCycles (v : Byte) : (s.setY v).stepCycles = s.stepCycles := rfl
@[simp] theorem State.setY_inFrame (v : Byte) : (s.setY v).inFrame = s.inFrame := rfl
@[simp] theorem State.setY_hostCalls (v : Byte) : (s.setY v).hostCalls = s.hostCalls := rfl

@[simp] theorem State.setSP_cpu (v : Byte) : (s.setSP v).cpu = { s.cpu with sp := v } := rfl
@[simp] theorem State.setSP_toBus (v : Byte) : (s.setSP v).toBus = s.toBus := rfl
@[simp] theorem State.setSP_halted (v : Byte) : (s.setSP v).halted = s.halted := rfl
@[simp] theorem State.setSP_loaded (v : Byte) : (s.setSP v).loaded = s.loaded := rfl
@[simp] theorem State.setSP_stepCycles (v : Byte) : (s.setSP v).stepCycles = s.stepCycles := rfl
@[simp] theorem State.setSP_inFrame (v : Byte) : (s.setSP v).inFrame = s.inFrame := rfl
@[simp] theorem State.setSP_hostCalls (v : Byte) : (s.setSP v).hostCalls = s.hostCalls := rfl

@[simp] theorem State.setPC_cpu (v : Word) : (s.setPC v).cpu = { s.cpu with pc := v } := rfl
@[simp] theorem State.setPC_toBus (v : Word) : (s.setPC v).toBus = s.toBus := rfl
@[simp] theorem State.setPC_halted (v : Word) : (s.setPC v).halted = s.halted := rfl
@[simp] theorem State.setPC_loaded (v : Word) : (s.setPC v).loaded = s.loaded := rfl
@[simp] theorem State.setPC_stepCycles (v : Word) : (s.setPC v).stepCycles = s.stepCycles := rfl
@[simp] theorem State.setPC_inFrame (v : Word) : (s.setPC v).inFrame = s.inFrame := rfl
@[simp] theorem State.setPC_hostCalls (v : Word) : (s.setPC v).hostCalls = s.hostCalls := rfl

@[simp] theorem State.setFlags_cpu (f : Flags) : (s.setFlags f).cpu = { s.cpu with flags := f } := rfl
@[simp] theorem State.setFlags_toBus (f : Flags) : (s.setFlags f).toBus = s.toBus := rfl
@[simp] theorem State.setFlags_halted (f : Flags) : (s.setFlags f).halted = s.halted := rfl
@[simp] theorem State.setFlags_loaded (f : Flags) : (s.setFlags f).loaded = s.loaded := rfl
@[simp] theorem State.setFlags_stepCycles (f : Flags) : (s.setFlags f).stepCycles = s.stepCycles := rfl
@[simp] theorem State.setFlags_inFrame (f : Flags) : (s.setFlags f).inFrame = s.inFrame := rfl
@[simp] theorem State.setFlags_hostCalls (f : Flags) : (s.setFlags f).hostCalls = s.hostCalls := rfl

@[simp] theorem State.setNZ_cpu (v : Byte) : (s.setNZ v).cpu = { s.cpu with flags := s.cpu.flags.setNZ v } := rfl
@[simp] theorem State.setNZ_toBus (v : Byte) : (s.setNZ v).toBus = s.toBus := rfl
@[simp] theorem State.setNZ_halted (v : Byte) : (s.setNZ v).halted = s.halted := rfl
@[simp] theorem State.setNZ_loaded (v : Byte) : (s.setNZ v).loaded = s.loaded := rfl
@[simp] theorem State.setNZ_stepCycles (v : Byte) : (s.setNZ v).stepCycles = s.stepCycles := rfl
@[simp] theorem State.setNZ_inFrame (v : Byte) : (s.setNZ v).inFrame = s.inFrame := rfl
@[simp] theorem State.setNZ_hostCalls (v : Byte) : (s.setNZ v).hostCalls = s.hostCalls := rfl

@[simp] theorem State.setCycles_cpu (n : Nat) : (s.setCycles n).cpu = s.cpu := rfl
@[simp] theorem State.setCycles_toBus (n : Nat) : (s.setCycles n).toBus = s.toBus := rfl
@[simp] theorem State.setCycles_halted (n : Nat) : (s.setCycles n).halted = s.halted := rfl
@[simp] theorem State.setCycles_loaded (n : Nat) : (s.setCycles n).loaded = s.loaded := rfl
@[simp] theorem State.setCycles_stepCycles (n : Nat) : (s.setCycles n).stepCycles = n := rfl
@[simp] theorem State.setCycles_inFrame (n : Nat) : (s.setCycles n).inFrame = s.inFrame := rfl
@[simp] theorem State.setCycles_hostCalls (n : Nat) : (s.setCycles n).hostCalls = s.hostCalls := rfl

@[simp] theorem State.advance_cpu (m : Mode) : (s.advance m).cpu = { s.cpu with pc := s.cpu.pc + BitVec.ofNat 16 m.length } := rfl
@[simp] theorem State.advance_toBus (m : Mode) : (s.advance m).toBus = s.toBus := rfl
@[simp] theorem State.advance_halted (m : Mode) : (s.advance m).halted = s.halted := rfl
@[simp] theorem State.advance_loaded (m : Mode) : (s.advance m).loaded = s.loaded := rfl
@[simp] theorem State.advance_stepCycles (m : Mode) : (s.advance m).stepCycles = s.stepCycles := rfl
@[simp] theorem State.advance_inFrame (m : Mode) : (s.advance m).inFrame = s.inFrame := rfl
@[simp] theorem State.advance_hostCalls (m : Mode) : (s.advance m).hostCalls = s.hostCalls := rfl

@[simp] theorem State.charge_cpu (k : Kind) (m : Mode) (c : Bool) : (s.charge k m c).cpu = s.cpu := rfl
@[simp] theorem State.charge_toBus (k : Kind) (m : Mode) (c : Bool) : (s.charge k m c).toBus = s.toBus := rfl
@[simp] theorem State.charge_halted (k : Kind) (m : Mode) (c : Bool) : (s.charge k m c).halted = s.halted := rfl
@[simp] theorem State.charge_loaded (k : Kind) (m : Mode) (c : Bool) : (s.charge k m c).loaded = s.loaded := rfl
@[simp] theorem State.charge_stepCycles (k : Kind) (m : Mode) (c : Bool) : (s.charge k m c).stepCycles = baseCycles k m + if pays k m && c then 1 else 0 := rfl
@[simp] theorem State.charge_inFrame (k : Kind) (m : Mode) (c : Bool) : (s.charge k m c).inFrame = s.inFrame := rfl
@[simp] theorem State.charge_hostCalls (k : Kind) (m : Mode) (c : Bool) : (s.charge k m c).hostCalls = s.hostCalls := rfl

@[simp] theorem State.write_cpu (a : Word) (v : Byte) : (s.write a v).cpu = s.cpu := rfl
@[simp] theorem State.write_toBus (a : Word) (v : Byte) : (s.write a v).toBus = s.toBus.write a v := rfl
@[simp] theorem State.write_halted (a : Word) (v : Byte) : (s.write a v).halted = s.halted := rfl
@[simp] theorem State.write_loaded (a : Word) (v : Byte) : (s.write a v).loaded = s.loaded := rfl
@[simp] theorem State.write_stepCycles (a : Word) (v : Byte) : (s.write a v).stepCycles = s.stepCycles := rfl
@[simp] theorem State.write_inFrame (a : Word) (v : Byte) : (s.write a v).inFrame = s.inFrame := rfl
@[simp] theorem State.write_hostCalls (a : Word) (v : Byte) : (s.write a v).hostCalls = s.hostCalls := rfl

@[simp] theorem State.read_cpu (a : Word) : (s.read a).2.cpu = s.cpu := rfl
@[simp] theorem State.read_toBus (a : Word) : (s.read a).2.toBus = (s.toBus.read a).2 := rfl
@[simp] theorem State.read_halted (a : Word) : (s.read a).2.halted = s.halted := rfl
@[simp] theorem State.read_loaded (a : Word) : (s.read a).2.loaded = s.loaded := rfl
@[simp] theorem State.read_stepCycles (a : Word) : (s.read a).2.stepCycles = s.stepCycles := rfl
@[simp] theorem State.read_inFrame (a : Word) : (s.read a).2.inFrame = s.inFrame := rfl
@[simp] theorem State.read_hostCalls (a : Word) : (s.read a).2.hostCalls = s.hostCalls := rfl

@[simp] theorem State.place_cpu (a : Word) (v : Byte) : (s.place a v).cpu = s.cpu := rfl
@[simp] theorem State.place_toBus (a : Word) (v : Byte) : (s.place a v).toBus = s.toBus.setMem (if a.toNat < 0x2000 then a.toNat % 0x800 else a.toNat) v := rfl
@[simp] theorem State.place_halted (a : Word) (v : Byte) : (s.place a v).halted = s.halted := rfl
@[simp] theorem State.place_loaded (a : Word) (v : Byte) : (s.place a v).loaded = s.loaded := rfl
@[simp] theorem State.place_stepCycles (a : Word) (v : Byte) : (s.place a v).stepCycles = s.stepCycles := rfl
@[simp] theorem State.place_inFrame (a : Word) (v : Byte) : (s.place a v).inFrame = s.inFrame := rfl
@[simp] theorem State.place_hostCalls (a : Word) (v : Byte) : (s.place a v).hostCalls = s.hostCalls := rfl

@[simp] theorem State.illegalOpcodeHalt_cpu : (s.illegalOpcodeHalt).cpu = s.cpu := rfl
@[simp] theorem State.illegalOpcodeHalt_toBus : (s.illegalOpcodeHalt).toBus = { s.toBus with events := .halt (haltAddress s.cfg.haltAddrMode s.cpu.pc) :: s.events } := rfl
@[simp] theorem State.illegalOpcodeHalt_halted : (s.illegalOpcodeHalt).halted = true := rfl
@[simp] theorem State.illegalOpcodeHalt_loaded : (s.illegalOpcodeHalt).loaded = s.loaded := rfl
@[simp] theorem State.illegalOpcodeHalt_stepCycles : (s.illegalOpcodeHalt).stepCycles = s.cfg.haltChunk := rfl
@[simp] theorem State.illegalOpcodeHalt_inFrame : (s.illegalOpcodeHalt).inFrame = s.inFrame := rfl
@[simp] theorem State.illegalOpcodeHalt_hostCalls : (s.illegalOpcodeHalt).hostCalls = s.hostCalls := rfl

@[simp] theorem State.clearIrq_cpu : (s.clearIrq).cpu = s.cpu := rfl
@[simp] theorem State.clearIrq_toBus : (s.clearIrq).toBus = { s.toBus with irq := { s.irq with pending := false } } := rfl
@[simp] theorem State.clearIrq_halted : (s.clearIrq).halted = s.halted := rfl
@[simp] theorem State.clearIrq_loaded : (s.clearIrq).loaded = s.loaded := rfl
@[simp] theorem State.clearIrq_stepCycles : (s.clearIrq).stepCycles = s.stepCycles := rfl
@[simp] theorem State.clearIrq_inFrame : (s.clearIrq).inFrame = s.inFrame := rfl
@[simp] theorem State.clearIrq_hostCalls : (s.clearIrq).hostCalls = s.hostCalls := rfl

@[simp] theorem State.read_value (a : Word) : (s.read a).1 = (s.toBus.read a).1 := rfl
@[simp] theorem Flags.setNZ_c (f : Flags) (v : Byte) : (f.setNZ v).c = f.c := rfl
@[simp] theorem Flags.setNZ_z (f : Flags) (v : Byte) : (f.setNZ v).z = (v == 0) := rfl
@[simp] theorem Flags.setNZ_i (f : Flags) (v : Byte) : (f.setNZ v).i = f.i := rfl
@[simp] theorem Flags.setNZ_d (f : Flags) (v : Byte) : (f.setNZ v).d = f.d := rfl
@[simp] theorem Flags.setNZ_b (f : Flags) (v : Byte) : (f.setNZ v).b = f.b := rfl
@[simp] theorem Flags.setNZ_v (f : Flags) (v : Byte) : (f.setNZ v).v = f.v := rfl
@[simp] theorem Flags.setNZ_n (f : Flags) (v : Byte) : (f.setNZ v).n = v.msb := rfl

end Sys2Proof.Machine
end

