-- ==== Sys2Proof/Laws/Memory.lean ====
section
/-!
SUPPORT. What the CPU's bus reads and what a store can change, with a mapper type of the spec: plain addresses read their backing byte and
nothing else happens; a store changes at most the bytes that `Bus.touches` names.
-/

namespace Sys2Proof.Machine

theorem Bus.memAt_setMem (b : Bus) (k : Nat) (v : Byte) (x : Nat) :
    (b.setMem k v).memAt x = if x = k then v else b.memAt x := Cells.get_set ..

/-! Reads. -/

/-- A read of onboard RAM is the byte of its mirror (R82). -/
theorem Bus.read_ram (b : Bus) {a : Word} (h : a.toNat < 0x2000) : b.read a = (b.memAt (a.toNat % 0x800), b) := by
  unfold Bus.read; simp only [h, if_true]

theorem Bus.readHigh_closed {b : Bus} (h : b.closedMapper) (a : Nat) : b.readHigh a = (b.memAt a, b) := by
  have hr : b.openRead a = none := by simp only [Bus.openRead, h, Option.map_none, Option.bind_none]
  unfold Bus.readHigh; rw [hr]

/-- A read of a plain address is its backing byte, and nothing changes. -/
theorem Bus.read_plain {b : Bus} (h : b.closedMapper) {a : Word} (ha : plainAddr a) :
    b.read a = (b.peek a.toNat, b) := by
  have hp : ¬(0x2000 ≤ a.toNat ∧ a.toNat < 0x4018) := by
    simpa [plainAddr, isPort] using ha
  unfold Bus.peek
  by_cases h1 : a.toNat < 0x2000
  · rw [b.read_ram h1, if_pos h1]
  · unfold Bus.read; dsimp only
    rw [if_neg h1, if_neg (by omega), if_neg (by omega), if_neg (by omega), if_neg (by omega), if_neg (by omega), if_neg h1]
    exact Bus.readHigh_closed h _

theorem Bus.latchPattern_closed {b : Bus} (h : b.closedMapper) (a : Nat) : b.latchPattern a = b := by
  unfold Bus.latchPattern Bus.latchAccess
  rw [h]; simp

/-- No read changes a byte of memory. -/
theorem Bus.read_mem {b : Bus} (h : b.closedMapper) (a : Word) : (b.read a).2.mem = b.mem := by
  unfold Bus.read; dsimp only
  repeat' split
  · rfl
  · unfold Bus.readPort; repeat' split
    all_goals first | rfl | skip
    have := congrArg Bus.mem (Bus.latchPattern_closed (b := { b with ppu := b.ppu.readDataByte.2 }) h b.ppu.vramAddress)
    exact this
  · rfl
  · rfl
  · rfl
  · rfl
  · rw [Bus.readHigh_closed h]

theorem Bus.peek_congr {b b' : Bus} (hc : b'.cfg = b.cfg) (hm : b'.mem = b.mem) (x : Nat) : b'.peek x = b.peek x := by
  unfold Bus.peek Bus.memAt; rw [hc, hm]

/-- Every byte of memory reads as before after a read. -/
theorem Bus.peek_read {b : Bus} (h : b.closedMapper) (a : Word) (x : Nat) : (b.read a).2.peek x = b.peek x :=
  Bus.peek_congr (b.keeps_read a).1 (Bus.read_mem h a) x

/-! Stores. -/

/-- `b'` has the same memory below the program window. -/
def Bus.SameBelow (b b' : Bus) : Prop := b'.cfg = b.cfg ∧ ∀ x < 0x8000, b'.memAt x = b.memAt x

theorem Bus.SameBelow.refl (b : Bus) : b.SameBelow b := ⟨rfl, fun _ _ => rfl⟩

theorem Bus.SameBelow.trans {b c d : Bus} (h : b.SameBelow c) (h' : c.SameBelow d) : b.SameBelow d :=
  ⟨h'.1.trans h.1, fun x hx => (h'.2 x hx).trans (h.2 x hx)⟩

theorem Bus.SameBelow.ite {c : Prop} [Decidable c] {b x y : Bus} (hx : b.SameBelow x) (hy : b.SameBelow y) :
    b.SameBelow (if c then x else y) := by
  split
  · exact hx
  · exact hy

theorem Bus.SameBelow.of_mem {b b' : Bus} (hc : b'.cfg = b.cfg) (hm : b'.mem = b.mem) : b.SameBelow b' :=
  ⟨hc, fun x _ => by unfold Bus.memAt; rw [hc, hm]⟩

theorem Bus.below_copyProgram (b : Bus) (address : Nat) (bytes : List Byte) : b.SameBelow (b.copyProgram address bytes) := by
  unfold Bus.copyProgram; split
  · next h => exact ⟨rfl, fun x hx => Cells.get_write_out _ _ _ _ _ (Or.inl (by omega))⟩
  · exact .refl b

theorem Bus.loadPattern_mem (b : Bus) (size k address : Nat) : (b.loadPattern size k address).mem = b.mem := by
  unfold Bus.loadPattern; split
  · rfl
  · unfold Bus.copyPattern; dsimp only; split <;> rfl

theorem Bus.load8kVromBank_mem (b : Bus) (bank address : Nat) : (b.load8kVromBank bank address).mem = b.mem := by
  unfold Bus.load8kVromBank; split
  · rfl
  · exact (Bus.loadPattern_mem ..).trans ((Bus.loadPattern_mem ..).trans rfl)

theorem Bus.below_loadPattern (b : Bus) (size k address : Nat) : b.SameBelow (b.loadPattern size k address) :=
  .of_mem (b.keeps_loadPattern ..).1 (b.loadPattern_mem ..)

theorem Bus.below_mapper (b : Bus) (r : MapperRegs) : b.SameBelow { b with mapper := r } := ⟨rfl, fun _ _ => rfl⟩

theorem Bus.below_fixLast (b : Bus) : b.SameBelow b.fixLast := by
  unfold Bus.fixLast
  exact .ite ((b.below_copyProgram ..).trans (Bus.below_mapper ..)) (.refl b)

theorem Bus.below_mmc3Execute (b : Bus) (cmd : BitVec 3) (arg : Nat) : b.SameBelow (b.mmc3Execute cmd arg) := by
  have two : ∀ k1 a1 k2 a2, b.SameBelow ((b.load1kVromBank k1 a1).load1kVromBank k2 a2) := fun _ _ _ _ =>
    (b.below_loadPattern ..).trans (Bus.below_loadPattern ..)
  have one : ∀ k a, b.SameBelow (b.load1kVromBank k a) := fun _ _ => b.below_loadPattern ..
  unfold Bus.mmc3Execute
  exact .ite (two ..) (.ite (two ..) (.ite (one ..) (.ite (one ..) (.ite (one ..) (.ite (one ..) (.ite
    (b.below_fixLast.trans (Bus.below_copyProgram ..))
    ((b.below_copyProgram ..).trans (Bus.below_fixLast _))))))))

theorem Bus.below_setMirroring (b : Bus) (m : Mirroring) : b.SameBelow (b.setMirroring m) := ⟨rfl, fun _ _ => rfl⟩

theorem Bus.below_mmc3Write (b : Bus) (address : Word) (v : Byte) : b.SameBelow (b.mmc3Write address v) := by
  unfold Bus.mmc3Write
  exact .ite (b.below_mapper _) (.ite (b.below_mmc3Execute ..) (.ite (b.below_setMirroring _) (.ite (b.below_mapper _)
    (.ite (b.below_mapper _) (.ite (b.below_mapper _) (.ite (b.below_mapper _) (.refl b)))))))

/-- A mapper register write of a type other than 0 changes no byte below the program window. -/
theorem Bus.below_kindWrite {b : Bus} (h : b.closedMapper) (h0 : b.cart.mapperType ≠ 0) (address : Word) (v : Byte) :
    b.SameBelow (b.kindWrite address v) := by
  unfold Bus.kindWrite; dsimp only
  rw [if_neg h0, h]
  exact .ite (b.below_copyProgram ..) (.ite (.of_mem (b.keeps_load8kVromBank ..).1 (b.load8kVromBank_mem ..))
    (.ite (b.below_mmc3Write ..) (.ite (((b.below_copyProgram ..).trans (Bus.below_copyProgram ..)).trans
      (Bus.below_setMirroring ..)) (.refl b))))

theorem Bus.writePort_mem {b : Bus} (h : b.closedMapper) (p : Nat) (v : Byte) (x : Nat) :
    (b.writePort p v).memAt x = if p < 2 ∧ x = 0x2000 + p then v else b.memAt x := by
  have hl : ∀ (q : Ppu) (a : Nat), ({ b with ppu := q } : Bus).latchPattern a = { b with ppu := q } := fun q a =>
    Bus.latchPattern_closed (b := { b with ppu := q }) h a
  unfold Bus.writePort
  split
  · next hp => subst hp; exact (b.memAt_setMem 0x2000 v x).trans (by simp)
  split
  · next hp => subst hp; exact (b.memAt_setMem 0x2001 v x).trans (by simp)
  have h2 : ¬(p < 2 ∧ x = 0x2000 + p) := by omega
  rw [if_neg h2]
  repeat' split
  all_goals first | rfl | (simp only [hl]; rfl)

/-- A store changes at most the backing bytes that `Bus.touches` names. -/
theorem Bus.peek_write {b : Bus} (h : b.closedMapper) (a : Word) (v : Byte) {x : Nat} (hx : b.touches a x = false) :
    (b.write a v).peek x = b.peek x := by
  have hcfg := (b.keeps_write a v).1
  suffices key : ∀ y, (if x < 0x2000 then x % 0x800 else x) = y → (b.write a v).memAt y = b.memAt y from key _ rfl
  intro y hy
  have hxy : x < 0x8000 → y < 0x8000 := by intro h; subst hy; split <;> omega
  have hyx : ¬ x < 0x8000 → ¬ y < 0x8000 := by intro h; subst hy; split <;> omega
  unfold Bus.touches at hx
  simp only [hy] at hx
  unfold Bus.write; dsimp only
  split at hx
  · next h1 => rw [if_pos h1, Bus.memAt_setMem, if_neg (by simpa using hx)]
  · next h1 =>
    rw [if_neg h1]
    split at hx
    · next h2 =>
      rw [if_pos h2, Bus.writePort_mem h, if_neg]
      simpa using hx
    · next h2 =>
      rw [if_neg h2]
      split at hx
      · next h3 =>
        split
        · rfl
        · split
          · rfl
          · rfl
      · next h3 =>
        rw [if_neg (by omega), if_neg (by omega), if_neg h3]
        split at hx
        · next h4 =>
          have hne : y ≠ a.toNat := by simpa using hx
          have hw : b.openWrite a.toNat = none := by simp only [Bus.openWrite, h, Option.map_none, Option.bind_none]
          rw [if_pos h4]; unfold Bus.writeLow; rw [hw]
          dsimp only
          split
          · rw [Bus.memAt_setMem, if_neg hne]
          · exact (b.memAt_setMem a.toNat v y).trans (if_neg hne)
        · next h4 =>
          rw [if_neg h4]
          split at hx
          · next h5 =>
            have hne : y ≠ a.toNat := by simpa using hx
            unfold Bus.kindWrite; dsimp only; rw [if_pos h5, Bus.memAt_setMem, if_neg hne]
          · next h5 =>
            split at hx
            · next h6 =>
              have hk : (b.kindWrite a v).mem = b.mem := by
                unfold Bus.kindWrite; dsimp only
                rw [if_neg h5, if_neg (by omega), if_pos h6]; exact Bus.load8kVromBank_mem ..
              have hk' := (b.keeps_kindWrite a v).1
              unfold Bus.memAt; rw [hk, hk']
            · exact (Bus.below_kindWrite h h5 a v).2 y (by simpa using hx)

/-- A store to onboard RAM changes one byte of memory and nothing else. -/
theorem Bus.write_ram (b : Bus) {a : Word} (v : Byte) (h : a.toNat < 0x2000) : b.write a v = b.setMem (a.toNat % 0x800) v := by
  unfold Bus.write; simp only [h, if_true]

/-- A plain store is read back (R81, R82): onboard RAM, plain storage, and the program window of mapper type 0. -/
theorem Bus.peek_write_self {b : Bus} (h : b.closedMapper) {a : Word} (v : Byte) (ha : plainAddr a)
    (hm : a.toNat < 0x8000 ∨ b.cart.mapperType = 0) : (b.write a v).peek a.toNat = v := by
  have hp : ¬(0x2000 ≤ a.toNat ∧ a.toNat < 0x4018) := by
    simpa [plainAddr, isPort] using ha
  unfold Bus.peek
  by_cases h1 : a.toNat < 0x2000
  · rw [b.write_ram v h1, if_pos h1, Bus.memAt_setMem, if_pos rfl]
  · rw [if_neg h1]
    unfold Bus.write; dsimp only
    rw [if_neg h1, if_neg (by omega), if_neg (by omega), if_neg (by omega), if_neg (by omega)]
    split
    · have hw : b.openWrite a.toNat = none := by simp only [Bus.openWrite, h, Option.map_none, Option.bind_none]
      unfold Bus.writeLow; rw [hw]; dsimp only
      split
      · rw [Bus.memAt_setMem, if_pos rfl]
      · exact (b.memAt_setMem a.toNat v a.toNat).trans (if_pos rfl)
    · have h5 : b.cart.mapperType = 0 := by omega
      unfold Bus.kindWrite; dsimp only; rw [if_pos h5, Bus.memAt_setMem, if_pos rfl]

/-! The stack page is onboard RAM. -/

theorem stackAddr_toNat (sp : Byte) : (stackAddr sp).toNat = 0x100 + sp.toNat := by
  unfold stackAddr
  have := sp.isLt
  simp only [BitVec.toNat_add, BitVec.toNat_setWidth]
  simp; omega

theorem stackAddr_lt (sp : Byte) : (stackAddr sp).toNat < 0x800 := by
  rw [stackAddr_toNat]; have := sp.isLt; omega

/-- A push changes one byte of the stack page and `SP` (R86). -/
theorem State.push_eq (s : State) (v : Byte) :
    s.push v = { s with toBus := s.toBus.setMem (0x100 + s.cpu.sp.toNat) v, cpu := { s.cpu with sp := s.cpu.sp - 1 } } := by
  have h := stackAddr_lt s.cpu.sp
  unfold State.push State.write State.setSP
  rw [s.toBus.write_ram v (by omega), Nat.mod_eq_of_lt h, stackAddr_toNat]

/-- A pull reads one byte of the stack page and changes `SP` (R87). -/
theorem State.pull_eq (s : State) :
    s.pull = (s.memAt (0x100 + (s.cpu.sp + 1).toNat), { s with cpu := { s.cpu with sp := s.cpu.sp + 1 } }) := by
  have h := stackAddr_lt (s.cpu.sp + 1)
  unfold State.pull State.read State.setSP
  rw [s.toBus.read_ram (by omega), Nat.mod_eq_of_lt h, stackAddr_toNat]

end Sys2Proof.Machine
end

