-- ==== Sys2Proof/Laws/Exec.lean ====
section
/-!
SUPPORT. What the shared operations of the instructions can do, said once for each, and what every instruction keeps.
-/

namespace Sys2Proof.Machine

/-- What every operation of the CPU keeps: what `Bus.Keeps` says of the bus, and the session's part of the state. -/
def State.Keeps (s t : State) : Prop :=
  s.toBus.Keeps t.toBus ∧ t.inFrame = s.inFrame ∧ t.loaded = s.loaded ∧ t.hostCalls = s.hostCalls

theorem State.Keeps.refl (s : State) : s.Keeps s := ⟨.refl _, rfl, rfl, rfl⟩

theorem State.Keeps.trans {s t u : State} (h : s.Keeps t) (h' : t.Keeps u) : s.Keeps u :=
  ⟨h.1.trans h'.1, h'.2.1.trans h.2.1, h'.2.2.1.trans h.2.2.1, h'.2.2.2.trans h.2.2.2⟩

theorem State.Keeps.ite {c : Prop} [Decidable c] {s x y : State} (hx : s.Keeps x) (hy : s.Keeps y) :
    s.Keeps (if c then x else y) := by
  split
  · exact hx
  · exact hy

theorem State.keeps_cpu (s : State) (c : Cpu) : s.Keeps { s with cpu := c } := .refl s

theorem State.keeps_setCycles (s : State) (n : Nat) : s.Keeps (s.setCycles n) := .refl s

theorem State.keeps_bus (s : State) {b : Bus} (h : s.toBus.Keeps b) : s.Keeps { s with toBus := b } := ⟨h, rfl, rfl, rfl⟩

theorem State.keeps_read (s : State) (a : Word) : s.Keeps (s.read a).2 := s.keeps_bus (s.toBus.keeps_read a)

theorem State.keeps_write (s : State) (a : Word) (v : Byte) : s.Keeps (s.write a v) := s.keeps_bus (s.toBus.keeps_write a v)

theorem State.keeps_read16 (s : State) (a : Word) : s.Keeps (s.read16 a).2 := (s.keeps_read a).trans (State.keeps_read ..)

theorem State.keeps_readPointer (s : State) (a : Word) : s.Keeps (s.readPointer a).2 :=
  (s.keeps_read a).trans (State.keeps_read ..)

theorem State.keeps_push (s : State) (v : Byte) : s.Keeps (s.push v) := s.keeps_write ..

theorem State.keeps_pushWord (s : State) (w : Word) : s.Keeps (s.pushWord w) := (s.keeps_push _).trans (State.keeps_push ..)

theorem State.keeps_pull (s : State) : s.Keeps s.pull.2 := State.keeps_read (s.setSP (s.cpu.sp + 1)) _

theorem State.keeps_pullWord (s : State) : s.Keeps s.pullWord.2 := s.keeps_pull.trans (State.keeps_pull _)

theorem State.keeps_enter (s : State) (r : Word) (p : Byte) (f : Flags) (vector : Word) : s.Keeps (s.enter r p f vector) :=
  ((s.keeps_pushWord r).trans (State.keeps_push _ p)).trans (State.keeps_read16 _ vector)

theorem State.keeps_returnFromInterrupt (s : State) : s.Keeps s.returnFromInterrupt :=
  s.keeps_pull.trans (State.keeps_pullWord _)

theorem State.keeps_clearIrq (s : State) : s.Keeps s.clearIrq := s.keeps_bus (s.toBus.keeps_irq _)

theorem State.keeps_dispatchIrq (s : State) : s.Keeps s.dispatchIrq := by
  unfold State.dispatchIrq
  refine State.Keeps.trans ?_ (State.keeps_clearIrq _)
  split
  · exact .ite (.refl s) (s.keeps_enter ..)
  · exact .ite (s.keeps_enter ..) (.refl s)
  · exact s.keeps_read16 _

theorem State.keeps_dispatchIfPending (s : State) : s.Keeps s.dispatchIfPending := .ite s.keeps_dispatchIrq (.refl s)

theorem State.keeps_illegalOpcodeHalt (s : State) : s.Keeps s.illegalOpcodeHalt :=
  ⟨s.toBus.keeps_events _, rfl, rfl, rfl⟩

/-! Operands. -/

theorem State.keeps_advance (s : State) (m : Mode) : s.Keeps (s.advance m) := .refl s

theorem State.keeps_resolve (s : State) (m : Operand) : s.Keeps (s.resolve m).state := by
  cases m
  case indx => exact s.keeps_read16 _
  case indy => exact s.keeps_read16 _
  case ind => exact s.keeps_readPointer _
  all_goals exact .refl s

/-- Resolving an operand changes no CPU register. -/
theorem State.resolve_cpu (s : State) (m : Operand) : (s.resolve m).state.cpu = s.cpu := by cases m <;> rfl

/-- Resolving an operand changes nothing but what its bus reads change. -/
theorem State.resolve_state (s : State) (m : Operand) :
    (s.resolve m).state = { s with toBus := (s.resolve m).state.toBus } := by cases m <;> rfl

theorem State.keeps_readOperand (s : State) (m : Operand) : s.Keeps (s.readOperand m).state := by
  cases m
  case imm => exact .refl s
  case acc => exact .refl s
  all_goals exact (s.keeps_resolve _).trans (State.keeps_read ..)

/-- Reading an operand changes no CPU register. -/
theorem State.readOperand_cpu (s : State) (m : Operand) : (s.readOperand m).state.cpu = s.cpu := by cases m <;> rfl

/-- Reading an operand changes nothing but what its bus reads change. -/
theorem State.readOperand_state (s : State) (m : Operand) :
    (s.readOperand m).state = { s with toBus := (s.readOperand m).state.toBus } := by cases m <;> rfl

theorem State.keeps_reading (s : State) (k : Kind) (m : Operand) {act : Byte → State → State}
    (h : ∀ v t, State.Keeps t (act v t)) : s.Keeps (s.reading k m act) :=
  (State.keeps_readOperand (s.advance m.mode) m).trans (h _ _)

theorem State.keeps_storing (s : State) (k : Kind) (m : Operand) (v : Byte) : s.Keeps (s.storing k m v) :=
  (State.keeps_resolve (s.advance m.mode) m).trans (State.keeps_write _ _ v)

theorem State.keeps_modifying (s : State) (k : Kind) (m : Operand) (act : Flags → Byte → Modified)
    {after : Byte → State → State} (h : ∀ v t, State.Keeps t (after v t)) : s.Keeps (s.modifying k m act after) := by
  cases m
  case acc => exact (State.keeps_cpu s _).trans (h _ _)
  all_goals exact ((((State.keeps_resolve (s.advance _) _).trans (State.keeps_read ..)).trans
    (State.keeps_cpu _ _)).trans (State.keeps_write ..)).trans (h _ _)

theorem State.keeps_implied (s : State) (k : Kind) {act : State → State} (h : ∀ t, State.Keeps t (act t)) :
    s.Keeps (s.implied k act) := h (s.advance .imp)

theorem State.keeps_branch (s : State) (k : Kind) (disp : Byte) (cond : Bool) : s.Keeps (s.branch k disp cond) :=
  .ite (.refl s) (.refl s)

/-! Every instruction. -/

/-- `r` is a next state, and what is kept is kept. -/
def Result.Keeps (s : State) (r : Result) : Prop := ∃ t, r = .next t ∧ s.Keeps t

theorem Result.keeps_next {s t : State} (h : s.Keeps t) : Result.Keeps s (.next t) := ⟨t, rfl, h⟩

/-- Every instruction answers a next state, with the configuration, the cartridge and the session as they were and the invariant kept. -/
theorem exec_keeps (i : Instr) (s : State) : Result.Keeps s (exec i s) := by
  cases i
  case jmp m => exact Result.keeps_next (State.keeps_resolve (s.advance m.mode) m)
  case jsr target => exact Result.keeps_next (State.keeps_pushWord (s.advance .abs) _)
  case skb => exact Result.keeps_next (.refl s)
  case unfilled => exact Result.keeps_next s.keeps_illegalOpcodeHalt
  case rts => exact Result.keeps_next (s.keeps_implied _ fun t => t.keeps_pullWord)
  case brk => exact Result.keeps_next (s.keeps_implied _ fun t => t.keeps_enter ..)
  case rti => exact Result.keeps_next (s.keeps_implied _ fun t => t.keeps_returnFromInterrupt)
  case pha => exact Result.keeps_next (s.keeps_implied _ fun t => t.keeps_push _)
  case php => exact Result.keeps_next (s.keeps_implied _ fun t => State.keeps_push (t.setFlags _) _)
  case pla => exact Result.keeps_next (s.keeps_implied _ fun t => t.keeps_pull)
  case plp => exact Result.keeps_next (s.keeps_implied _ fun t => t.keeps_pull)
  case sta => exact Result.keeps_next (s.keeps_storing ..)
  case stx => exact Result.keeps_next (s.keeps_storing ..)
  case sty => exact Result.keeps_next (s.keeps_storing ..)
  case sax => exact Result.keeps_next (s.keeps_storing ..)
  case asl => exact Result.keeps_next (s.keeps_modifying _ _ _ fun _ t => .refl t)
  case lsr => exact Result.keeps_next (s.keeps_modifying _ _ _ fun _ t => .refl t)
  case rol => exact Result.keeps_next (s.keeps_modifying _ _ _ fun _ t => .refl t)
  case ror => exact Result.keeps_next (s.keeps_modifying _ _ _ fun _ t => .refl t)
  case inc => exact Result.keeps_next (s.keeps_modifying _ _ _ fun _ t => .refl t)
  case dec => exact Result.keeps_next (s.keeps_modifying _ _ _ fun _ t => .refl t)
  case slo => exact Result.keeps_next (s.keeps_modifying _ _ _ fun _ t => .refl t)
  case sre => exact Result.keeps_next (s.keeps_modifying _ _ _ fun _ t => .refl t)
  case rla => exact Result.keeps_next (s.keeps_modifying _ _ _ fun _ t => .refl t)
  case rra => exact Result.keeps_next (s.keeps_modifying _ _ _ fun _ t => .refl t)
  case dcp => exact Result.keeps_next (s.keeps_modifying _ _ _ fun _ t => .refl t)
  case isc => exact Result.keeps_next (s.keeps_modifying _ _ _ fun _ t => .refl t)
  case bcc => exact Result.keeps_next (s.keeps_branch ..)
  case bcs => exact Result.keeps_next (s.keeps_branch ..)
  case beq => exact Result.keeps_next (s.keeps_branch ..)
  case bne => exact Result.keeps_next (s.keeps_branch ..)
  case bmi => exact Result.keeps_next (s.keeps_branch ..)
  case bpl => exact Result.keeps_next (s.keeps_branch ..)
  case bvc => exact Result.keeps_next (s.keeps_branch ..)
  case bvs => exact Result.keeps_next (s.keeps_branch ..)
  all_goals first
    | exact Result.keeps_next (s.keeps_implied _ fun t => .refl t)
    | exact Result.keeps_next (s.keeps_reading _ _ fun _ t => .refl t)

/-! The scheduler. -/

theorem State.keeps_fetchOperands (s : State) (opcode : Byte) (opaddr : Word) :
    s.Keeps (s.fetchOperands opcode opaddr).2.2 := by
  unfold State.fetchOperands
  split
  · exact .refl s
  · split
    · exact .refl s
    · split
      · exact .refl s
      · dsimp only; split
        · exact s.keeps_read _
        · exact (s.keeps_read _).trans (State.keeps_read ..)

theorem State.keeps_fetch (s : State) : s.Keeps s.fetch.2 := (s.keeps_read _).trans (State.keeps_fetchOperands ..)

/-- The CPU part of a step answers a next state. -/
theorem State.keeps_cpuStep (s : State) : Result.Keeps s s.cpuStep := by
  obtain ⟨t, ht, hk⟩ := exec_keeps s.dispatchIfPending.fetch.1 s.dispatchIfPending.fetch.2
  exact ⟨t, ht, (s.keeps_dispatchIfPending.trans (State.keeps_fetch _)).trans hk⟩

/-- Advancing the devices keeps the bus's part; it may end the frame. -/
theorem State.keeps_afterCpu (s : State) :
    s.toBus.Keeps s.afterCpu.toBus ∧ s.afterCpu.loaded = s.loaded ∧ s.afterCpu.hostCalls = s.hostCalls ∧
      s.afterCpu.cpu = s.cpu ∧ s.afterCpu.halted = s.halted :=
  ⟨(s.toBus.keeps_apuStep _).trans (Bus.keeps_dots ..), rfl, rfl, rfl, rfl⟩

theorem State.keeps_idle (s : State) : s.Keeps s.idle := by
  unfold State.idle
  exact .ite (.refl s) (.ite (s.keeps_bus (s.toBus.keeps_halt _)) (s.keeps_bus (s.toBus.keeps_halt _)))

/-- One scheduler step answers a next state. -/
theorem State.schedulerStep_next (s : State) :
    ∃ t, s.schedulerStep = .next t ∧ s.toBus.Keeps t.toBus ∧ t.loaded = s.loaded ∧ t.hostCalls = s.hostCalls := by
  unfold State.schedulerStep
  split
  · exact ⟨_, rfl, s.keeps_idle.1.trans (State.keeps_afterCpu _).1, s.keeps_idle.2.2.1, s.keeps_idle.2.2.2⟩
  · obtain ⟨t, ht, hk⟩ := s.keeps_cpuStep
    rw [ht]
    exact ⟨_, rfl, hk.1.trans t.keeps_afterCpu.1, hk.2.2.1, hk.2.2.2⟩

/-! The session. -/

theorem Bus.inv_resetWith (cfg : Config) : (State.resetWith cfg).toBus.Inv :=
  ⟨⟨by simp [State.resetWith], by simp [State.resetWith]⟩, Ppu.inv_reset cfg, Apu.inv_reset cfg,
    by simp [State.resetWith, Pads.reset], by simp [State.resetWith, Pads.reset]⟩

theorem State.inv_restore {s : State} {p : Snapshot} (h : p.Inv s.cfg) : (s.restore p).toBus.Inv := h

/-- The load of a cartridge gives a bus that satisfies the invariant, from any state. -/
theorem State.inv_install (s : State) (cart : Cart) (image : Option (List Byte)) : (s.install cart image).toBus.Inv := by
  have h0 : (s.resetAll cart).toBus.Inv := Bus.inv_resetWith s.cfg
  have hk := ((s.resetAll cart).toBus.keeps_mapperLoad image).trans (Bus.keeps_setMirroring _ cart.initialMirroring)
  exact hk.2.2 h0

theorem State.install_cfg (s : State) (cart : Cart) (image : Option (List Byte)) : (s.install cart image).cfg = s.cfg :=
  (((s.resetAll cart).toBus.keeps_mapperLoad image).trans (Bus.keeps_setMirroring _ cart.initialMirroring)).1

end Sys2Proof.Machine
end

