-- ==== Sys2Proof/Laws/Load.lean ====
section
/-!
SUPPORT. The laws of a load: what the bank copies write and leave alone, bank by bank, and the banks that a parsed file has.
-/

namespace Sys2Proof.Machine

/-! One copy. -/

/-- A slice copied inside the program window is read back there, and nothing else of `mem` changes. -/
theorem Bus.memAt_copyProgram (b : Bus) {address : Nat} {bytes : List Byte} (h : 0x8000 ≤ address)
    (h' : address + bytes.length ≤ 0x10000) (x : Nat) :
    (b.copyProgram address bytes).memAt x =
      if address ≤ x ∧ x < address + bytes.length then bytes.getD (x - address) 0 else b.memAt x := by
  unfold Bus.copyProgram Bus.memAt
  rw [if_pos ⟨h, h'⟩]
  split
  · next hx =>
    obtain ⟨j, rfl⟩ := Nat.exists_eq_add_of_le hx.1
    have hj : j < bytes.length := by omega
    simp only [Nat.add_sub_cancel_left]
    rw [Cells.get_write_in _ _ _ _ j hj, List.getD_eq_getElem _ _ hj]
  · next hx => exact Cells.get_write_out _ _ _ _ _ (by omega)

/-- A slice copied inside the pattern window is read back there, and nothing else of `vram` changes. -/
theorem Bus.vramAt_copyPattern (b : Bus) {address : Nat} {bytes : List Byte} (h : address + bytes.length ≤ 0x2000) (x : Nat) :
    (b.copyPattern address bytes).ppu.vramAt x =
      if address ≤ x ∧ x < address + bytes.length then bytes.getD (x - address) 0 else b.ppu.vramAt x := by
  unfold Bus.copyPattern Ppu.vramAt
  rw [if_pos h]
  split
  · next hx =>
    obtain ⟨j, rfl⟩ := Nat.exists_eq_add_of_le hx.1
    have hj : j < bytes.length := by omega
    simp only [Nat.add_sub_cancel_left]
    rw [Cells.get_write_in _ _ _ _ j hj, List.getD_eq_getElem _ _ hj]
  · next hx => exact Cells.get_write_out _ _ _ _ _ (by omega)

/-- Before the first visible scanline nothing is rendered. -/
theorem Bus.triggerRendering_early (b : Bus) (h : b.ppu.scanline < 21) : b.triggerRendering = b := by
  unfold Bus.triggerRendering Ppu.triggerRendering
  rw [if_neg (by omega)]

/-! What no copy touches. -/

/-- `b'` is `b` with other bytes in `mem` and `vram`, and nothing else changed. -/
def Bus.SameButStores (b b' : Bus) : Prop := b' = { b with mem := b'.mem, ppu := { b.ppu with vram := b'.ppu.vram } }

theorem Bus.SameButStores.refl (b : Bus) : b.SameButStores b := rfl

theorem Bus.SameButStores.trans {b c d : Bus} (h : b.SameButStores c) (h' : c.SameButStores d) : b.SameButStores d := by
  unfold Bus.SameButStores at *
  rw [h'.trans (by rw [h])]

theorem Bus.SameButStores.scanline {b c : Bus} (h : b.SameButStores c) : c.ppu.scanline = b.ppu.scanline := by rw [h]

theorem Bus.SameButStores.cart {b c : Bus} (h : b.SameButStores c) : c.cart = b.cart := by rw [h]

theorem Bus.SameButStores.cfg {b c : Bus} (h : b.SameButStores c) : c.cfg = b.cfg := by rw [h]

theorem Bus.sameButStores_copyProgram (b : Bus) (address : Nat) (bytes : List Byte) :
    b.SameButStores (b.copyProgram address bytes) := by
  unfold Bus.copyProgram; split <;> rfl

theorem Bus.sameButStores_copyPattern (b : Bus) (address : Nat) (bytes : List Byte) :
    b.SameButStores (b.copyPattern address bytes) := by
  unfold Bus.copyPattern; split <;> rfl

/-! The banks of a cartridge. -/

/-- Every bank of the cartridge has its full size, and there are as many as the header says. -/
structure Cart.WellSized (c : Cart) : Prop where
  programCount : c.rom.length = c.prgBanks
  programBank : ∀ l ∈ c.rom, l.length = 0x4000
  patternCount : c.vrom.length = c.chrBanks
  patternBank : ∀ l ∈ c.vrom, l.length = 0x1000
  somePrograms : 1 ≤ c.prgBanks

theorem takePadded_length : ∀ (n : Nat) (l : List Byte), (takePadded n l).length = n
  | 0, l => by simp [takePadded]
  | n + 1, [] => by simp [takePadded, takePadded_length n]
  | n + 1, b :: bs => by simp [takePadded, takePadded_length n]

theorem sliceBanks_length (bytes : List Byte) (off size count : Nat) : (sliceBanks bytes off size count).length = count := by
  simp [sliceBanks]

theorem sliceBanks_bank (bytes : List Byte) (off size count : Nat) :
    ∀ l ∈ sliceBanks bytes off size count, l.length = size := by
  intro l hl
  obtain ⟨b, -, rfl⟩ := List.mem_map.1 hl
  exact takePadded_length ..

/-- A file that parses gives a cartridge of full banks, of a registered type. -/
theorem parseRom_wellSized {cfg : Config} {bytes : List Byte} {c : Cart} (h : parseRom cfg bytes = .ok c) :
    c.WellSized := by
  unfold parseRom at h
  split at h
  · cases h
  · split at h
    · cases h
    · split at h
      · cases h
      · next hp =>
        cases h
        have hp' : 1 ≤ (bytes.getD 4 0).toNat := by omega
        exact ⟨sliceBanks_length .., fun l hl => sliceBanks_bank _ _ _ _ l hl, sliceBanks_length ..,
          fun l hl => sliceBanks_bank _ _ _ _ l hl, hp'⟩

theorem Cart.WellSized.romBank {c : Cart} (h : c.WellSized) {k : Nat} (hk : k < c.prgBanks) :
    c.romBank k = c.rom.getD k [] ∧ (c.rom.getD k []).length = 0x4000 := by
  have hl : k < c.rom.length := by rw [h.programCount]; exact hk
  refine ⟨by rw [Cart.romBank, Nat.mod_eq_of_lt hk], ?_⟩
  rw [List.getD_eq_getElem _ _ hl]; exact h.programBank _ (List.getElem_mem hl)

theorem Cart.WellSized.vromBank {c : Cart} (h : c.WellSized) {k : Nat} (hk : k < c.chrBanks) :
    c.vromBank k = c.vrom.getD k [] ∧ (c.vrom.getD k []).length = 0x1000 := by
  have hl : k < c.vrom.length := by rw [h.patternCount]; exact hk
  refine ⟨by rw [Cart.vromBank, Nat.mod_eq_of_lt hk], ?_⟩
  rw [List.getD_eq_getElem _ _ hl]; exact h.patternBank _ (List.getElem_mem hl)

/-- A 16 KB program bank copied to a half of the window: its bytes there, every other byte as it was. -/
theorem Bus.memAt_loadRomBank (b : Bus) (h : b.cart.WellSized) {k address : Nat} (hk : k < b.cart.prgBanks)
    (ha : 0x8000 ≤ address) (ha' : address ≤ 0xC000) (x : Nat) :
    (b.loadRomBank k address).memAt x =
      if address ≤ x ∧ x < address + 0x4000 then (b.cart.rom.getD k []).getD (x - address) 0 else b.memAt x := by
  obtain ⟨e, hl⟩ := h.romBank hk
  have ht : (b.cart.rom.getD k []).take 0x4000 = b.cart.rom.getD k [] := List.take_of_length_le (by omega)
  unfold Bus.loadRomBank
  rw [e, ht, b.memAt_copyProgram ha (by omega), hl]

/-- An 8 KB half `half` of program bank `k` copied to a quarter of the window. -/
theorem Bus.memAt_load8kRomBank (b : Bus) (h : b.cart.WellSized) {k half address : Nat} (hk : k < b.cart.prgBanks)
    (hh : half < 2) (ha : 0x8000 ≤ address) (ha' : address ≤ 0xE000) (x : Nat) :
    (b.load8kRomBank (2 * k + half) address).memAt x =
      if address ≤ x ∧ x < address + 0x2000 then (b.cart.rom.getD k []).getD (half * 0x2000 + (x - address)) 0
      else b.memAt x := by
  obtain ⟨e, hl⟩ := h.romBank hk
  unfold Bus.load8kRomBank
  rw [show (2 * k + half) / 2 = k by omega, show (2 * k + half) % 2 = half by omega, e]
  have hlen : (((b.cart.rom.getD k []).drop (half * 0x2000)).take 0x2000).length = 0x2000 := by
    rw [List.length_take, List.length_drop, hl]; omega
  rw [b.memAt_copyProgram ha (by omega), hlen]
  split
  · next hx =>
    have h1 : x - address < 0x2000 := by omega
    simp [List.getD_eq_getElem?_getD, h1]
  · rfl

/-- A 4 KB pattern bank copied to a half of the pattern window, before the first visible scanline. -/
theorem Bus.vramAt_loadVromBank (b : Bus) (h : b.cart.WellSized) (hs : b.ppu.scanline < 21) {k address : Nat}
    (hk : k < b.cart.chrBanks) (ha : address ≤ 0x1000) (x : Nat) :
    (b.loadVromBank k address).ppu.vramAt x =
      if address ≤ x ∧ x < address + 0x1000 then (b.cart.vrom.getD k []).getD (x - address) 0 else b.ppu.vramAt x := by
  obtain ⟨e, hl⟩ := h.vromBank hk
  unfold Bus.loadVromBank Bus.loadPattern
  rw [if_neg (by omega)]
  have ht : ((b.cart.vrom.getD k []).drop 0).take 0x1000 = b.cart.vrom.getD k [] := by
    rw [List.drop_zero]; exact List.take_of_length_le (by omega)
  simp only [Nat.div_self (show 0 < 0x1000 by decide), Nat.div_one, Nat.mod_one, Nat.zero_mul]
  rw [b.triggerRendering_early hs, e, ht, b.vramAt_copyPattern (by omega), hl]

theorem Bus.sameButStores_loadVromBank (b : Bus) (hs : b.ppu.scanline < 21) (k address : Nat) :
    b.SameButStores (b.loadVromBank k address) := by
  unfold Bus.loadVromBank Bus.loadPattern; split
  · exact .refl b
  · dsimp only; rw [b.triggerRendering_early hs]; exact b.sameButStores_copyPattern ..

/-! The power-on layout. -/

/-- The bank in the upper half of the program window after a load (R440, R447, R450). -/
def Cart.upperBank (c : Cart) : Nat :=
  if c.mapperType = 2 ∨ c.mapperType = 4 then c.prgBanks - 1 else if 1 < c.prgBanks then 1 else 0

theorem Cart.WellSized.upperBank_lt {c : Cart} (h : c.WellSized) : c.upperBank < c.prgBanks := by
  have := h.somePrograms
  unfold Cart.upperBank; split
  · omega
  · split <;> omega

/-- Two 16 KB banks side by side: the program window is the two, and no byte below it changes. -/
theorem Bus.memAt_twoBanks (b : Bus) (h : b.cart.WellSized) {k k' : Nat} (hk : k < b.cart.prgBanks) (hk' : k' < b.cart.prgBanks) :
    (∀ x < 0x8000, ((b.loadRomBank k 0x8000).loadRomBank k' 0xC000).memAt x = b.memAt x) ∧
    ∀ j < 0x4000, ((b.loadRomBank k 0x8000).loadRomBank k' 0xC000).memAt (0x8000 + j) = (b.cart.rom.getD k []).getD j 0 ∧
      ((b.loadRomBank k 0x8000).loadRomBank k' 0xC000).memAt (0xC000 + j) = (b.cart.rom.getD k' []).getD j 0 := by
  have hc : (b.loadRomBank k 0x8000).cart = b.cart := (b.keeps_loadRomBank ..).2.1
  have e := fun x => Bus.memAt_loadRomBank (b.loadRomBank k 0x8000) (hc ▸ h) (k := k') (address := 0xC000) (hc ▸ hk')
    (by decide) (by decide) x
  have e' := fun x => b.memAt_loadRomBank h hk (address := 0x8000) (by decide) (by decide) x
  rw [hc] at e
  refine ⟨fun x hx => ?_, fun j hj => ⟨?_, ?_⟩⟩
  · rw [e, if_neg (by omega), e', if_neg (by omega)]
  · rw [e, if_neg (by omega), e', if_pos (by omega), Nat.add_sub_cancel_left]
  · rw [e, if_pos (by omega), Nat.add_sub_cancel_left]

/-- Four 8 KB slices side by side, as type 4 lays them out (R450). -/
theorem Bus.memAt_fourSlices (b : Bus) (h : b.cart.WellSized) {k : Nat} (hk : k < b.cart.prgBanks) :
    let t := (((b.load8kRomBank (2 * k) 0xC000).load8kRomBank (2 * k + 1) 0xE000).load8kRomBank 0 0x8000).load8kRomBank 1 0xA000
    (∀ x < 0x8000, t.memAt x = b.memAt x) ∧
    ∀ j < 0x4000, t.memAt (0x8000 + j) = (b.cart.rom.getD 0 []).getD j 0 ∧ t.memAt (0xC000 + j) = (b.cart.rom.getD k []).getD j 0 := by
  have e : ∀ (d : Bus) (k half address : Nat), d.cart = b.cart → k < b.cart.prgBanks → half < 2 → 0x8000 ≤ address →
      address ≤ 0xE000 → ∀ x, (d.load8kRomBank (2 * k + half) address).memAt x =
        if address ≤ x ∧ x < address + 0x2000 then (b.cart.rom.getD k []).getD (half * 0x2000 + (x - address)) 0
        else d.memAt x := fun d k half address hd hk hh ha ha' x => by
    have := d.memAt_load8kRomBank (hd ▸ h) (k := k) (half := half) (address := address) (hd ▸ hk) hh ha ha' x
    rwa [hd] at this
  have c1 : (b.load8kRomBank (2 * k) 0xC000).cart = b.cart := (b.keeps_load8kRomBank ..).2.1
  have c2 : ((b.load8kRomBank (2 * k) 0xC000).load8kRomBank (2 * k + 1) 0xE000).cart = b.cart :=
    (Bus.keeps_load8kRomBank ..).2.1.trans c1
  have c3 : (((b.load8kRomBank (2 * k) 0xC000).load8kRomBank (2 * k + 1) 0xE000).load8kRomBank 0 0x8000).cart = b.cart :=
    (Bus.keeps_load8kRomBank ..).2.1.trans c2
  have hp := h.somePrograms
  have e1 := e b k 0 0xC000 rfl hk (by decide) (by decide) (by decide)
  have e2 := e _ k 1 0xE000 c1 hk (by decide) (by decide) (by decide)
  have e3 := e _ 0 0 0x8000 c2 hp (by decide) (by decide) (by decide)
  have e4 := e _ 0 1 0xA000 c3 hp (by decide) (by decide) (by decide)
  simp only [Nat.add_zero, Nat.mul_zero, Nat.zero_add] at e1 e2 e3 e4
  refine ⟨fun x hx => ?_, fun j hj => ⟨?_, ?_⟩⟩
  · rw [e4, if_neg (by omega), e3, if_neg (by omega), e2, if_neg (by omega), e1, if_neg (by omega)]
  · rw [e4]
    split
    · exact congrArg (fun i => (b.cart.rom.getD 0 []).getD i 0) (by omega)
    · rw [e3, if_pos (by omega)]; exact congrArg (fun i => (b.cart.rom.getD 0 []).getD i 0) (by omega)
  · rw [e4, if_neg (by omega), e3, if_neg (by omega), e2]
    split
    · exact congrArg (fun i => (b.cart.rom.getD k []).getD i 0) (by omega)
    · rw [e1, if_pos (by omega)]; exact congrArg (fun i => (b.cart.rom.getD k []).getD i 0) (by omega)

theorem Bus.sameButStores_loadInitialPrg (b : Bus) (hc : b.closedMapper) : b.SameButStores b.loadInitialPrg := by
  have hr : ∀ (d : Bus) k a, d.SameButStores (d.loadRomBank k a) := fun d _ _ => d.sameButStores_copyProgram ..
  have h8 : ∀ (d : Bus) k a, d.SameButStores (d.load8kRomBank k a) := fun d _ _ => d.sameButStores_copyProgram ..
  unfold Bus.loadInitialPrg
  rw [hc, Option.bind_none]
  dsimp only
  repeat' split
  · exact (hr ..).trans (hr ..)
  · exact (((h8 ..).trans (h8 ..)).trans (h8 ..)).trans (h8 ..)
  · exact (hr ..).trans (hr ..)
  · exact (hr ..).trans (hr ..)

/-- `LoadInitialPrg()` of a mapper type of the spec: bank 0 below, the kind's bank above. -/
theorem Bus.memAt_loadInitialPrg (b : Bus) (hc : b.closedMapper) (h : b.cart.WellSized) :
    (∀ x < 0x8000, b.loadInitialPrg.memAt x = b.memAt x) ∧
    ∀ j < 0x4000, b.loadInitialPrg.memAt (0x8000 + j) = (b.cart.rom.getD 0 []).getD j 0 ∧
      b.loadInitialPrg.memAt (0xC000 + j) = (b.cart.rom.getD b.cart.upperBank []).getD j 0 := by
  have hp := h.somePrograms
  have hu := h.upperBank_lt
  unfold Cart.upperBank at hu ⊢
  unfold Bus.loadInitialPrg
  rw [hc, Option.bind_none]
  dsimp only
  by_cases h2 : b.cart.mapperType = 2
  · rw [if_pos h2, if_pos (Or.inl h2)]; rw [if_pos (Or.inl h2)] at hu; exact b.memAt_twoBanks h hp hu
  · by_cases h4 : b.cart.mapperType = 4
    · rw [if_neg h2, if_pos h4, if_pos (Or.inr h4)]; rw [if_pos (Or.inr h4)] at hu; exact b.memAt_fourSlices h hu
    · rw [if_neg h2, if_neg h4, if_neg (not_or_intro h2 h4)]
      by_cases h1 : 1 < b.cart.prgBanks
      · rw [if_pos h1, if_pos h1]; exact b.memAt_twoBanks h hp h1
      · rw [if_neg h1, if_neg h1]; exact b.memAt_twoBanks h hp hp

/-- The two halves of the pattern window after `LoadInitialChr()` of a mapper type of the spec, before the first visible scanline. -/
theorem Bus.vramAt_loadInitialChr (b : Bus) (hc : b.closedMapper) (h : b.cart.WellSized) (hs : b.ppu.scanline < 21) (h0 : b.cart.chrBanks ≠ 0) :
    (∀ x, 0x2000 ≤ x → b.loadInitialChr.ppu.vramAt x = b.ppu.vramAt x) ∧
    ∀ j < 0x1000, b.loadInitialChr.ppu.vramAt j = (b.cart.vrom.getD 0 []).getD j 0 ∧
      b.loadInitialChr.ppu.vramAt (0x1000 + j) = (b.cart.vrom.getD (if 1 < b.cart.chrBanks then 1 else 0) []).getD j 0 := by
  have two : ∀ k < b.cart.chrBanks,
      (∀ x, 0x2000 ≤ x → ((b.loadVromBank 0 0).loadVromBank k 0x1000).ppu.vramAt x = b.ppu.vramAt x) ∧
      ∀ j < 0x1000, ((b.loadVromBank 0 0).loadVromBank k 0x1000).ppu.vramAt j = (b.cart.vrom.getD 0 []).getD j 0 ∧
        ((b.loadVromBank 0 0).loadVromBank k 0x1000).ppu.vramAt (0x1000 + j) = (b.cart.vrom.getD k []).getD j 0 := by
    intro k hk
    have hf := b.sameButStores_loadVromBank hs 0 0
    have e := fun x => Bus.vramAt_loadVromBank (b.loadVromBank 0 0) (hf.cart ▸ h) (hf.scanline ▸ hs) (k := k) (address := 0x1000)
      (hf.cart ▸ hk) (by decide) x
    have e' := fun x => b.vramAt_loadVromBank h hs (k := 0) (address := 0) (by omega) (by decide) x
    rw [hf.cart] at e
    refine ⟨fun x hx => ?_, fun j hj => ⟨?_, ?_⟩⟩
    · rw [e, if_neg (by omega), e', if_neg (by omega)]
    · rw [e, if_neg (by omega), e', if_pos (by omega), Nat.sub_zero]
    · rw [e, if_pos (by omega), Nat.add_sub_cancel_left]
  unfold Bus.loadInitialChr
  rw [hc, Option.bind_none]
  dsimp only
  rw [if_neg h0]
  by_cases h1 : b.cart.chrBanks = 1
  · rw [if_pos h1, if_neg (by omega)]; exact two 0 (by omega)
  · rw [if_neg h1, if_pos (by omega)]; exact two 1 (by omega)

theorem Bus.sameButStores_loadInitialChr (b : Bus) (hc : b.closedMapper) (hs : b.ppu.scanline < 21) : b.SameButStores b.loadInitialChr := by
  have two : ∀ k k', b.SameButStores ((b.loadVromBank k 0).loadVromBank k' 0x1000) := fun k k' =>
    (b.sameButStores_loadVromBank hs k 0).trans
      (Bus.sameButStores_loadVromBank _ ((b.sameButStores_loadVromBank hs k 0).scanline ▸ hs) k' 0x1000)
  unfold Bus.loadInitialChr
  rw [hc, Option.bind_none]
  dsimp only
  repeat' split
  · exact .refl b
  · exact two ..
  · exact two ..

/-- `LoadInitialChr()` of a mapper type of the spec leaves `mem` alone. -/
theorem Bus.loadInitialChr_mem (b : Bus) (hc : b.closedMapper) : b.loadInitialChr.mem = b.mem := by
  have two : ∀ k1 a1 k2 a2, ((b.loadVromBank k1 a1).loadVromBank k2 a2).mem = b.mem := fun _ _ _ _ =>
    (Bus.loadPattern_mem ..).trans (Bus.loadPattern_mem ..)
  unfold Bus.loadInitialChr
  rw [hc, Option.bind_none]
  dsimp only
  repeat' split
  · rfl
  · exact two ..
  · exact two ..

/-- The image that `LoadBatteryRam()` copies, if it copies one (R443). -/
def Cart.savedRam (c : Cart) (image : Option (List Byte)) : Option (List Byte) :=
  image.filter fun l => c.battery && l.length == 0x2000

theorem Bus.sameButStores_loadBatteryRam (b : Bus) (image : Option (List Byte)) : b.SameButStores (b.loadBatteryRam image) := by
  unfold Bus.loadBatteryRam
  repeat' split
  · rfl
  · rfl
  · rfl

/-- `LoadBatteryRam()`: the saved image where there is one, every other byte as it was. -/
theorem Bus.memAt_loadBatteryRam (b : Bus) (image : Option (List Byte)) (x : Nat) :
    (b.loadBatteryRam image).memAt x =
      match b.cart.savedRam image with
      | some l => if 0x6000 ≤ x ∧ x < 0x8000 then l.getD (x - 0x6000) 0 else b.memAt x
      | none => b.memAt x := by
  unfold Bus.loadBatteryRam Cart.savedRam
  cases image with
  | none => rfl
  | some l =>
    dsimp only
    by_cases h : b.cart.battery = true ∧ l.length = 0x2000
    · rw [if_pos h, Option.filter_some, if_pos (by simp [h.1, h.2])]
      dsimp only
      unfold Bus.memAt
      split
      · next hx =>
        obtain ⟨j, rfl⟩ := Nat.exists_eq_add_of_le hx.1
        have hj : j < l.length := by omega
        simp only [Nat.add_sub_cancel_left]
        rw [Cells.get_write_in _ _ _ _ j hj, List.getD_eq_getElem _ _ hj]
      · next hx => exact Cells.get_write_out _ _ _ _ _ (by omega)
    · rw [if_neg h, Option.filter_some, if_neg (by simpa using h)]

end Sys2Proof.Machine
end

