-- ==== Sys2Proof/Laws/PerInstr.lean ====
section
/-!
SUPPORT. One statement for each instruction as syntax: the encoding of a well-formed instruction has an opcode byte, and its length is the one
the opcode byte selects (30_encoding.md rules R120, R124).
-/

namespace Sys2Proof.Laws

set_option Elab.async false

/-- The encoding has an opcode byte and the length that byte selects. -/
def EncodeLength.Statement (i : Instr) : Prop :=
  WellFormed i = true → i.opcode.isSome = true ∧ (encode i).length = opcodeLength (i.opcode.getD 0)

/-- The bytes of an operand are those of its mode's format (R124). -/
theorem operand_bytes_length (m : Operand) : m.bytes.length + 1 = m.mode.length := by cases m <;> rfl

/-- What is to be said of an instruction, from what the table says of its opcode. -/
theorem encodeLength_of_opcode {i : Instr}
    (h : i.opcode.isSome = true ∧ opcodeLength (i.opcode.getD 0) = i.operand.mode.length) :
    i.opcode.isSome = true ∧ (encode i).length = opcodeLength (i.opcode.getD 0) :=
  ⟨h.1, (operand_bytes_length i.operand).trans h.2.symm⟩

/-- What the table says of a kind and mode: it has an opcode, of the mode's length. -/
abbrev hasOpcode (k : Kind) (m : Mode) : Prop :=
  (findOpcode k m).isSome = true ∧ opcodeLength ((findOpcode k m).getD 0) = m.length

theorem encodeLength_of_table {i : Instr} (k : Kind) (hi : i.opcode = i.kind.bind fun k => findOpcode k i.operand.mode)
    (hk : i.kind = some k) (h : hasOpcode k i.operand.mode) :
    i.opcode.isSome = true ∧ (encode i).length = opcodeLength (i.opcode.getD 0) :=
  encodeLength_of_opcode (by rw [hi, hk]; exact h)

theorem EncodeLength.adc (m : Operand) : EncodeLength.Statement (.adc m) := fun h =>
  have key : ∀ mode ∈ aluModes, hasOpcode .adc mode := by decide +kernel
  encodeLength_of_table .adc rfl rfl (key m.mode (of_decide_eq_true h))

theorem EncodeLength.and (m : Operand) : EncodeLength.Statement (.and m) := fun h =>
  have key : ∀ mode ∈ aluModes, hasOpcode .and mode := by decide +kernel
  encodeLength_of_table .and rfl rfl (key m.mode (of_decide_eq_true h))

theorem EncodeLength.asl (m : Operand) : EncodeLength.Statement (.asl m) := fun h =>
  have key : ∀ mode ∈ shiftModes, hasOpcode .asl mode := by decide +kernel
  encodeLength_of_table .asl rfl rfl (key m.mode (of_decide_eq_true h))

theorem EncodeLength.bcc (disp : Byte) : EncodeLength.Statement (.bcc disp) := fun _ =>
  encodeLength_of_table .bcc rfl rfl (show hasOpcode .bcc .rel by decide +kernel)

theorem EncodeLength.bcs (disp : Byte) : EncodeLength.Statement (.bcs disp) := fun _ =>
  encodeLength_of_table .bcs rfl rfl (show hasOpcode .bcs .rel by decide +kernel)

theorem EncodeLength.beq (disp : Byte) : EncodeLength.Statement (.beq disp) := fun _ =>
  encodeLength_of_table .beq rfl rfl (show hasOpcode .beq .rel by decide +kernel)

theorem EncodeLength.bit (m : Operand) : EncodeLength.Statement (.bit m) := fun h =>
  have key : ∀ mode ∈ [Mode.zp, .abs], hasOpcode .bit mode := by decide +kernel
  encodeLength_of_table .bit rfl rfl (key m.mode (of_decide_eq_true h))

theorem EncodeLength.bmi (disp : Byte) : EncodeLength.Statement (.bmi disp) := fun _ =>
  encodeLength_of_table .bmi rfl rfl (show hasOpcode .bmi .rel by decide +kernel)

theorem EncodeLength.bne (disp : Byte) : EncodeLength.Statement (.bne disp) := fun _ =>
  encodeLength_of_table .bne rfl rfl (show hasOpcode .bne .rel by decide +kernel)

theorem EncodeLength.bpl (disp : Byte) : EncodeLength.Statement (.bpl disp) := fun _ =>
  encodeLength_of_table .bpl rfl rfl (show hasOpcode .bpl .rel by decide +kernel)

theorem EncodeLength.brk : EncodeLength.Statement .brk := fun _ =>
  encodeLength_of_table .brk rfl rfl (show hasOpcode .brk .imp by decide +kernel)

theorem EncodeLength.bvc (disp : Byte) : EncodeLength.Statement (.bvc disp) := fun _ =>
  encodeLength_of_table .bvc rfl rfl (show hasOpcode .bvc .rel by decide +kernel)

theorem EncodeLength.bvs (disp : Byte) : EncodeLength.Statement (.bvs disp) := fun _ =>
  encodeLength_of_table .bvs rfl rfl (show hasOpcode .bvs .rel by decide +kernel)

theorem EncodeLength.clc : EncodeLength.Statement .clc := fun _ =>
  encodeLength_of_table .clc rfl rfl (show hasOpcode .clc .imp by decide +kernel)

theorem EncodeLength.cld : EncodeLength.Statement .cld := fun _ =>
  encodeLength_of_table .cld rfl rfl (show hasOpcode .cld .imp by decide +kernel)

theorem EncodeLength.cli : EncodeLength.Statement .cli := fun _ =>
  encodeLength_of_table .cli rfl rfl (show hasOpcode .cli .imp by decide +kernel)

theorem EncodeLength.clv : EncodeLength.Statement .clv := fun _ =>
  encodeLength_of_table .clv rfl rfl (show hasOpcode .clv .imp by decide +kernel)

theorem EncodeLength.cmp (m : Operand) : EncodeLength.Statement (.cmp m) := fun h =>
  have key : ∀ mode ∈ aluModes, hasOpcode .cmp mode := by decide +kernel
  encodeLength_of_table .cmp rfl rfl (key m.mode (of_decide_eq_true h))

theorem EncodeLength.cpx (m : Operand) : EncodeLength.Statement (.cpx m) := fun h =>
  have key : ∀ mode ∈ [Mode.imm, .zp, .abs], hasOpcode .cpx mode := by decide +kernel
  encodeLength_of_table .cpx rfl rfl (key m.mode (of_decide_eq_true h))

theorem EncodeLength.cpy (m : Operand) : EncodeLength.Statement (.cpy m) := fun h =>
  have key : ∀ mode ∈ [Mode.imm, .zp, .abs], hasOpcode .cpy mode := by decide +kernel
  encodeLength_of_table .cpy rfl rfl (key m.mode (of_decide_eq_true h))

theorem EncodeLength.dec (m : Operand) : EncodeLength.Statement (.dec m) := fun h =>
  have key : ∀ mode ∈ incDecModes, hasOpcode .dec mode := by decide +kernel
  encodeLength_of_table .dec rfl rfl (key m.mode (of_decide_eq_true h))

theorem EncodeLength.dex : EncodeLength.Statement .dex := fun _ =>
  encodeLength_of_table .dex rfl rfl (show hasOpcode .dex .imp by decide +kernel)

theorem EncodeLength.dey : EncodeLength.Statement .dey := fun _ =>
  encodeLength_of_table .dey rfl rfl (show hasOpcode .dey .imp by decide +kernel)

theorem EncodeLength.eor (m : Operand) : EncodeLength.Statement (.eor m) := fun h =>
  have key : ∀ mode ∈ aluModes, hasOpcode .eor mode := by decide +kernel
  encodeLength_of_table .eor rfl rfl (key m.mode (of_decide_eq_true h))

theorem EncodeLength.inc (m : Operand) : EncodeLength.Statement (.inc m) := fun h =>
  have key : ∀ mode ∈ incDecModes, hasOpcode .inc mode := by decide +kernel
  encodeLength_of_table .inc rfl rfl (key m.mode (of_decide_eq_true h))

theorem EncodeLength.inx : EncodeLength.Statement .inx := fun _ =>
  encodeLength_of_table .inx rfl rfl (show hasOpcode .inx .imp by decide +kernel)

theorem EncodeLength.iny : EncodeLength.Statement .iny := fun _ =>
  encodeLength_of_table .iny rfl rfl (show hasOpcode .iny .imp by decide +kernel)

theorem EncodeLength.jmp (m : Operand) : EncodeLength.Statement (.jmp m) := fun h =>
  have key : ∀ mode ∈ [Mode.abs, .ind], hasOpcode .jmp mode := by decide +kernel
  encodeLength_of_table .jmp rfl rfl (key m.mode (of_decide_eq_true h))

theorem EncodeLength.jsr (target : Word) : EncodeLength.Statement (.jsr target) := fun _ =>
  encodeLength_of_table .jsr rfl rfl (show hasOpcode .jsr .abs by decide +kernel)

theorem EncodeLength.lda (m : Operand) : EncodeLength.Statement (.lda m) := fun h =>
  have key : ∀ mode ∈ aluModes, hasOpcode .lda mode := by decide +kernel
  encodeLength_of_table .lda rfl rfl (key m.mode (of_decide_eq_true h))

theorem EncodeLength.ldx (m : Operand) : EncodeLength.Statement (.ldx m) := fun h =>
  have key : ∀ mode ∈ [Mode.imm, .zp, .zpy, .abs, .absy], hasOpcode .ldx mode := by decide +kernel
  encodeLength_of_table .ldx rfl rfl (key m.mode (of_decide_eq_true h))

theorem EncodeLength.ldy (m : Operand) : EncodeLength.Statement (.ldy m) := fun h =>
  have key : ∀ mode ∈ [Mode.imm, .zp, .zpx, .abs, .absx], hasOpcode .ldy mode := by decide +kernel
  encodeLength_of_table .ldy rfl rfl (key m.mode (of_decide_eq_true h))

theorem EncodeLength.lsr (m : Operand) : EncodeLength.Statement (.lsr m) := fun h =>
  have key : ∀ mode ∈ shiftModes, hasOpcode .lsr mode := by decide +kernel
  encodeLength_of_table .lsr rfl rfl (key m.mode (of_decide_eq_true h))

theorem EncodeLength.nop (opcode : Byte) : EncodeLength.Statement (.nop opcode) := fun h =>
  have key : ∀ op ∈ nopOpcodes, opcodeLength op = 1 := by decide +kernel
  encodeLength_of_opcode ⟨rfl, key opcode (of_decide_eq_true h)⟩

theorem EncodeLength.ora (m : Operand) : EncodeLength.Statement (.ora m) := fun h =>
  have key : ∀ mode ∈ aluModes, hasOpcode .ora mode := by decide +kernel
  encodeLength_of_table .ora rfl rfl (key m.mode (of_decide_eq_true h))

theorem EncodeLength.pha : EncodeLength.Statement .pha := fun _ =>
  encodeLength_of_table .pha rfl rfl (show hasOpcode .pha .imp by decide +kernel)

theorem EncodeLength.php : EncodeLength.Statement .php := fun _ =>
  encodeLength_of_table .php rfl rfl (show hasOpcode .php .imp by decide +kernel)

theorem EncodeLength.pla : EncodeLength.Statement .pla := fun _ =>
  encodeLength_of_table .pla rfl rfl (show hasOpcode .pla .imp by decide +kernel)

theorem EncodeLength.plp : EncodeLength.Statement .plp := fun _ =>
  encodeLength_of_table .plp rfl rfl (show hasOpcode .plp .imp by decide +kernel)

theorem EncodeLength.rol (m : Operand) : EncodeLength.Statement (.rol m) := fun h =>
  have key : ∀ mode ∈ shiftModes, hasOpcode .rol mode := by decide +kernel
  encodeLength_of_table .rol rfl rfl (key m.mode (of_decide_eq_true h))

theorem EncodeLength.ror (m : Operand) : EncodeLength.Statement (.ror m) := fun h =>
  have key : ∀ mode ∈ shiftModes, hasOpcode .ror mode := by decide +kernel
  encodeLength_of_table .ror rfl rfl (key m.mode (of_decide_eq_true h))

theorem EncodeLength.rti : EncodeLength.Statement .rti := fun _ =>
  encodeLength_of_table .rti rfl rfl (show hasOpcode .rti .imp by decide +kernel)

theorem EncodeLength.rts : EncodeLength.Statement .rts := fun _ =>
  encodeLength_of_table .rts rfl rfl (show hasOpcode .rts .imp by decide +kernel)

theorem EncodeLength.sbc (m : Operand) : EncodeLength.Statement (.sbc m) := fun h =>
  have key : ∀ mode ∈ aluModes, hasOpcode .sbc mode := by decide +kernel
  encodeLength_of_table .sbc rfl rfl (key m.mode (of_decide_eq_true h))

theorem EncodeLength.sec : EncodeLength.Statement .sec := fun _ =>
  encodeLength_of_table .sec rfl rfl (show hasOpcode .sec .imp by decide +kernel)

theorem EncodeLength.sed : EncodeLength.Statement .sed := fun _ =>
  encodeLength_of_table .sed rfl rfl (show hasOpcode .sed .imp by decide +kernel)

theorem EncodeLength.sei : EncodeLength.Statement .sei := fun _ =>
  encodeLength_of_table .sei rfl rfl (show hasOpcode .sei .imp by decide +kernel)

theorem EncodeLength.sta (m : Operand) : EncodeLength.Statement (.sta m) := fun h =>
  have key : ∀ mode ∈ [Mode.zp, .zpx, .abs, .absx, .absy, .indx, .indy], hasOpcode .sta mode := by decide +kernel
  encodeLength_of_table .sta rfl rfl (key m.mode (of_decide_eq_true h))

theorem EncodeLength.stx (m : Operand) : EncodeLength.Statement (.stx m) := fun h =>
  have key : ∀ mode ∈ [Mode.zp, .zpy, .abs], hasOpcode .stx mode := by decide +kernel
  encodeLength_of_table .stx rfl rfl (key m.mode (of_decide_eq_true h))

theorem EncodeLength.sty (m : Operand) : EncodeLength.Statement (.sty m) := fun h =>
  have key : ∀ mode ∈ [Mode.zp, .zpx, .abs], hasOpcode .sty mode := by decide +kernel
  encodeLength_of_table .sty rfl rfl (key m.mode (of_decide_eq_true h))

theorem EncodeLength.tax : EncodeLength.Statement .tax := fun _ =>
  encodeLength_of_table .tax rfl rfl (show hasOpcode .tax .imp by decide +kernel)

theorem EncodeLength.tay : EncodeLength.Statement .tay := fun _ =>
  encodeLength_of_table .tay rfl rfl (show hasOpcode .tay .imp by decide +kernel)

theorem EncodeLength.tsx : EncodeLength.Statement .tsx := fun _ =>
  encodeLength_of_table .tsx rfl rfl (show hasOpcode .tsx .imp by decide +kernel)

theorem EncodeLength.txa : EncodeLength.Statement .txa := fun _ =>
  encodeLength_of_table .txa rfl rfl (show hasOpcode .txa .imp by decide +kernel)

theorem EncodeLength.txs : EncodeLength.Statement .txs := fun _ =>
  encodeLength_of_table .txs rfl rfl (show hasOpcode .txs .imp by decide +kernel)

theorem EncodeLength.tya : EncodeLength.Statement .tya := fun _ =>
  encodeLength_of_table .tya rfl rfl (show hasOpcode .tya .imp by decide +kernel)

theorem EncodeLength.alr (imm : Byte) : EncodeLength.Statement (.alr imm) := fun _ =>
  encodeLength_of_table .alr rfl rfl (show hasOpcode .alr .imm by decide +kernel)

theorem EncodeLength.anc (opcode imm : Byte) : EncodeLength.Statement (.anc opcode imm) := fun h =>
  have key : ∀ op ∈ ancOpcodes, opcodeLength op = 2 := by decide +kernel
  encodeLength_of_opcode ⟨rfl, key opcode (of_decide_eq_true h)⟩

theorem EncodeLength.arr (imm : Byte) : EncodeLength.Statement (.arr imm) := fun _ =>
  encodeLength_of_table .arr rfl rfl (show hasOpcode .arr .imm by decide +kernel)

theorem EncodeLength.axs (imm : Byte) : EncodeLength.Statement (.axs imm) := fun _ =>
  encodeLength_of_table .axs rfl rfl (show hasOpcode .axs .imm by decide +kernel)

theorem EncodeLength.lax (m : Operand) : EncodeLength.Statement (.lax m) := fun h =>
  have key : ∀ mode ∈ [Mode.zp, .zpy, .abs, .absy, .indx, .indy], hasOpcode .lax mode := by decide +kernel
  encodeLength_of_table .lax rfl rfl (key m.mode (of_decide_eq_true h))

theorem EncodeLength.sax (m : Operand) : EncodeLength.Statement (.sax m) := fun h =>
  have key : ∀ mode ∈ [Mode.zp, .zpy, .abs, .indx], hasOpcode .sax mode := by decide +kernel
  encodeLength_of_table .sax rfl rfl (key m.mode (of_decide_eq_true h))

theorem EncodeLength.dcp (m : Operand) : EncodeLength.Statement (.dcp m) := fun h =>
  have key : ∀ mode ∈ comboModes, hasOpcode .dcp mode := by decide +kernel
  encodeLength_of_table .dcp rfl rfl (key m.mode (of_decide_eq_true h))

theorem EncodeLength.isc (m : Operand) : EncodeLength.Statement (.isc m) := fun h =>
  have key : ∀ mode ∈ comboModes, hasOpcode .isc mode := by decide +kernel
  encodeLength_of_table .isc rfl rfl (key m.mode (of_decide_eq_true h))

theorem EncodeLength.rla (m : Operand) : EncodeLength.Statement (.rla m) := fun h =>
  have key : ∀ mode ∈ comboModes, hasOpcode .rla mode := by decide +kernel
  encodeLength_of_table .rla rfl rfl (key m.mode (of_decide_eq_true h))

theorem EncodeLength.rra (m : Operand) : EncodeLength.Statement (.rra m) := fun h =>
  have key : ∀ mode ∈ comboModes, hasOpcode .rra mode := by decide +kernel
  encodeLength_of_table .rra rfl rfl (key m.mode (of_decide_eq_true h))

theorem EncodeLength.slo (m : Operand) : EncodeLength.Statement (.slo m) := fun h =>
  have key : ∀ mode ∈ comboModes, hasOpcode .slo mode := by decide +kernel
  encodeLength_of_table .slo rfl rfl (key m.mode (of_decide_eq_true h))

theorem EncodeLength.sre (m : Operand) : EncodeLength.Statement (.sre m) := fun h =>
  have key : ∀ mode ∈ comboModes, hasOpcode .sre mode := by decide +kernel
  encodeLength_of_table .sre rfl rfl (key m.mode (of_decide_eq_true h))

theorem EncodeLength.skb (opcode imm : Byte) : EncodeLength.Statement (.skb opcode imm) := fun h =>
  have key : ∀ op ∈ skbOpcodes, opcodeLength op = 2 := by decide +kernel
  encodeLength_of_opcode ⟨rfl, key opcode (of_decide_eq_true h)⟩

theorem EncodeLength.ign (opcode : Byte) (m : Operand) : EncodeLength.Statement (.ign opcode m) := fun h =>
  have key : ∀ mode ∈ [Mode.zp, .rel, .imp, .abs, .acc, .imm, .zpx, .zpy, .absx, .absy, .indx, .indy, .ind],
      ∀ op ∈ ignOpcodes mode, opcodeLength op = mode.length := by decide +kernel
  encodeLength_of_opcode ⟨rfl, key m.mode (by cases m <;> simp [Operand.mode]) opcode (of_decide_eq_true h)⟩

theorem EncodeLength.unfilled (opcode : Byte) : EncodeLength.Statement (.unfilled opcode) := fun h =>
  have key : ∀ op ∈ unfilledOpcodes, opcodeLength op = 1 := by decide +kernel
  encodeLength_of_opcode ⟨rfl, key opcode (of_decide_eq_true h)⟩

end Sys2Proof.Laws
end

