-- ==== Sys2Proof/Tests/Slice0.lean ====
section
/-!
SUPPORT. The model's own tests. Expected values come from the spec: the encodings from the Encodings lines of files 40 to 44 and the opcode map (R143), the
single steps from the vectors of 95_test_vectors.md (a test's last word is the vector's name). The last part gives, for each statement that
has hypotheses, a state and operands that meet them.
-/

namespace Sys2Proof.Tests

open Sys2Proof Sys2Proof.Machine

set_option Elab.async false

/-! Ill-formed terms: one for each check of `WellFormed`. -/

theorem test_illFormed_modes :
    WellFormed (.adc .acc) = false ∧ WellFormed (.lda (.zpy 0)) = false ∧ WellFormed (.asl (.imm 0)) = false ∧ WellFormed (.inc .acc) = false ∧
    WellFormed (.dcp (.imm 0)) = false ∧ WellFormed (.bit (.imm 0)) = false ∧ WellFormed (.cpx (.zpx 0)) = false ∧
    WellFormed (.jmp (.zp 0)) = false ∧ WellFormed (.ldx (.zpx 0)) = false ∧ WellFormed (.ldy (.zpy 0)) = false ∧
    WellFormed (.sta (.imm 0)) = false ∧ WellFormed (.stx (.zpx 0)) = false ∧ WellFormed (.sty (.zpy 0)) = false ∧
    WellFormed (.lax (.imm 0)) = false ∧ WellFormed (.sax (.zpx 0)) = false := by decide

theorem test_illFormed_opcodes :
    WellFormed (.nop 0x00) = false ∧ WellFormed (.skb 0x00 0) = false ∧ WellFormed (.anc 0x8B 0) = false ∧
    WellFormed (.ign 0x04 (.abs 0)) = false ∧ WellFormed (.ign 0x0C .imp) = false ∧ WellFormed (.unfilled 0xEA) = false := by decide

/-! Decoding: words of every constructor. -/

/-- Encodings lines of ADC to UNFILLED (30_encoding.md rule R143, spec/opcode_table.json). -/
theorem test_decode_1 :
    decode [0x02, 0x77] = .ok ((.unfilled 0x02), [0x77]) ∧
    decode [0xF2, 0x77] = .ok ((.unfilled 0xF2), [0x77]) ∧
    decode [0x61, 0x9C, 0x77] = .ok ((.adc (.indx 0x9C)), [0x77]) ∧
    decode [0x7D, 0x34, 0x12, 0x77] = .ok ((.adc (.absx 0x1234)), [0x77]) ∧
    decode [0x4B, 0x9C, 0x77] = .ok ((.alr 0x9C), [0x77]) ∧
    decode [0x0B, 0x9C, 0x77] = .ok ((.anc 0x0B 0x9C), [0x77]) ∧
    decode [0x2B, 0x9C, 0x77] = .ok ((.anc 0x2B 0x9C), [0x77]) ∧
    decode [0x21, 0x9C, 0x77] = .ok ((.and (.indx 0x9C)), [0x77]) ∧
    decode [0x3D, 0x34, 0x12, 0x77] = .ok ((.and (.absx 0x1234)), [0x77]) ∧
    decode [0x6B, 0x9C, 0x77] = .ok ((.arr 0x9C), [0x77]) ∧
    decode [0x06, 0x9C, 0x77] = .ok ((.asl (.zp 0x9C)), [0x77]) ∧
    decode [0x1E, 0x34, 0x12, 0x77] = .ok ((.asl (.absx 0x1234)), [0x77]) := by
  refine ⟨rfl, rfl, rfl, rfl, rfl, rfl, rfl, rfl, rfl, rfl, rfl, rfl⟩

/-- Encodings lines of AXS to BVS (30_encoding.md rule R143, spec/opcode_table.json). -/
theorem test_decode_2 :
    decode [0xCB, 0x9C, 0x77] = .ok ((.axs 0x9C), [0x77]) ∧
    decode [0x90, 0x9C, 0x77] = .ok ((.bcc 0x9C), [0x77]) ∧
    decode [0xB0, 0x9C, 0x77] = .ok ((.bcs 0x9C), [0x77]) ∧
    decode [0xF0, 0x9C, 0x77] = .ok ((.beq 0x9C), [0x77]) ∧
    decode [0x24, 0x9C, 0x77] = .ok ((.bit (.zp 0x9C)), [0x77]) ∧
    decode [0x2C, 0x34, 0x12, 0x77] = .ok ((.bit (.abs 0x1234)), [0x77]) ∧
    decode [0x30, 0x9C, 0x77] = .ok ((.bmi 0x9C), [0x77]) ∧
    decode [0xD0, 0x9C, 0x77] = .ok ((.bne 0x9C), [0x77]) ∧
    decode [0x10, 0x9C, 0x77] = .ok ((.bpl 0x9C), [0x77]) ∧
    decode [0x00, 0x77] = .ok (.brk, [0x77]) ∧
    decode [0x50, 0x9C, 0x77] = .ok ((.bvc 0x9C), [0x77]) ∧
    decode [0x70, 0x9C, 0x77] = .ok ((.bvs 0x9C), [0x77]) := by
  refine ⟨rfl, rfl, rfl, rfl, rfl, rfl, rfl, rfl, rfl, rfl, rfl, rfl⟩

/-- Encodings lines of CLC to DCP (30_encoding.md rule R143, spec/opcode_table.json). -/
theorem test_decode_3 :
    decode [0x18, 0x77] = .ok (.clc, [0x77]) ∧
    decode [0xD8, 0x77] = .ok (.cld, [0x77]) ∧
    decode [0x58, 0x77] = .ok (.cli, [0x77]) ∧
    decode [0xB8, 0x77] = .ok (.clv, [0x77]) ∧
    decode [0xC1, 0x9C, 0x77] = .ok ((.cmp (.indx 0x9C)), [0x77]) ∧
    decode [0xDD, 0x34, 0x12, 0x77] = .ok ((.cmp (.absx 0x1234)), [0x77]) ∧
    decode [0xE0, 0x9C, 0x77] = .ok ((.cpx (.imm 0x9C)), [0x77]) ∧
    decode [0xEC, 0x34, 0x12, 0x77] = .ok ((.cpx (.abs 0x1234)), [0x77]) ∧
    decode [0xC0, 0x9C, 0x77] = .ok ((.cpy (.imm 0x9C)), [0x77]) ∧
    decode [0xCC, 0x34, 0x12, 0x77] = .ok ((.cpy (.abs 0x1234)), [0x77]) ∧
    decode [0xC3, 0x9C, 0x77] = .ok ((.dcp (.indx 0x9C)), [0x77]) ∧
    decode [0xDF, 0x34, 0x12, 0x77] = .ok ((.dcp (.absx 0x1234)), [0x77]) := by
  refine ⟨rfl, rfl, rfl, rfl, rfl, rfl, rfl, rfl, rfl, rfl, rfl, rfl⟩

/-- Encodings lines of DEC to INY (30_encoding.md rule R143, spec/opcode_table.json). -/
theorem test_decode_4 :
    decode [0xC6, 0x9C, 0x77] = .ok ((.dec (.zp 0x9C)), [0x77]) ∧
    decode [0xDE, 0x34, 0x12, 0x77] = .ok ((.dec (.absx 0x1234)), [0x77]) ∧
    decode [0xCA, 0x77] = .ok (.dex, [0x77]) ∧
    decode [0x88, 0x77] = .ok (.dey, [0x77]) ∧
    decode [0x41, 0x9C, 0x77] = .ok ((.eor (.indx 0x9C)), [0x77]) ∧
    decode [0x5D, 0x34, 0x12, 0x77] = .ok ((.eor (.absx 0x1234)), [0x77]) ∧
    decode [0x04, 0x9C, 0x77] = .ok ((.ign 0x04 (.zp 0x9C)), [0x77]) ∧
    decode [0xFC, 0x34, 0x12, 0x77] = .ok ((.ign 0xFC (.absx 0x1234)), [0x77]) ∧
    decode [0xE6, 0x9C, 0x77] = .ok ((.inc (.zp 0x9C)), [0x77]) ∧
    decode [0xFE, 0x34, 0x12, 0x77] = .ok ((.inc (.absx 0x1234)), [0x77]) ∧
    decode [0xE8, 0x77] = .ok (.inx, [0x77]) ∧
    decode [0xC8, 0x77] = .ok (.iny, [0x77]) := by
  refine ⟨rfl, rfl, rfl, rfl, rfl, rfl, rfl, rfl, rfl, rfl, rfl, rfl⟩

/-- Encodings lines of ISC to LDY (30_encoding.md rule R143, spec/opcode_table.json). -/
theorem test_decode_5 :
    decode [0xE3, 0x9C, 0x77] = .ok ((.isc (.indx 0x9C)), [0x77]) ∧
    decode [0xFF, 0x34, 0x12, 0x77] = .ok ((.isc (.absx 0x1234)), [0x77]) ∧
    decode [0x4C, 0x34, 0x12, 0x77] = .ok ((.jmp (.abs 0x1234)), [0x77]) ∧
    decode [0x6C, 0x34, 0x12, 0x77] = .ok ((.jmp (.ind 0x1234)), [0x77]) ∧
    decode [0x20, 0x34, 0x12, 0x77] = .ok ((.jsr 0x1234), [0x77]) ∧
    decode [0xA3, 0x9C, 0x77] = .ok ((.lax (.indx 0x9C)), [0x77]) ∧
    decode [0xBF, 0x34, 0x12, 0x77] = .ok ((.lax (.absy 0x1234)), [0x77]) ∧
    decode [0xA1, 0x9C, 0x77] = .ok ((.lda (.indx 0x9C)), [0x77]) ∧
    decode [0xBD, 0x34, 0x12, 0x77] = .ok ((.lda (.absx 0x1234)), [0x77]) ∧
    decode [0xA2, 0x9C, 0x77] = .ok ((.ldx (.imm 0x9C)), [0x77]) ∧
    decode [0xBE, 0x34, 0x12, 0x77] = .ok ((.ldx (.absy 0x1234)), [0x77]) ∧
    decode [0xA0, 0x9C, 0x77] = .ok ((.ldy (.imm 0x9C)), [0x77]) := by
  refine ⟨rfl, rfl, rfl, rfl, rfl, rfl, rfl, rfl, rfl, rfl, rfl, rfl⟩

/-- Encodings lines of LDY to RLA (30_encoding.md rule R143, spec/opcode_table.json). -/
theorem test_decode_6 :
    decode [0xBC, 0x34, 0x12, 0x77] = .ok ((.ldy (.absx 0x1234)), [0x77]) ∧
    decode [0x46, 0x9C, 0x77] = .ok ((.lsr (.zp 0x9C)), [0x77]) ∧
    decode [0x5E, 0x34, 0x12, 0x77] = .ok ((.lsr (.absx 0x1234)), [0x77]) ∧
    decode [0x1A, 0x77] = .ok ((.nop 0x1A), [0x77]) ∧
    decode [0xFA, 0x77] = .ok ((.nop 0xFA), [0x77]) ∧
    decode [0x01, 0x9C, 0x77] = .ok ((.ora (.indx 0x9C)), [0x77]) ∧
    decode [0x1D, 0x34, 0x12, 0x77] = .ok ((.ora (.absx 0x1234)), [0x77]) ∧
    decode [0x48, 0x77] = .ok (.pha, [0x77]) ∧
    decode [0x08, 0x77] = .ok (.php, [0x77]) ∧
    decode [0x68, 0x77] = .ok (.pla, [0x77]) ∧
    decode [0x28, 0x77] = .ok (.plp, [0x77]) ∧
    decode [0x23, 0x9C, 0x77] = .ok ((.rla (.indx 0x9C)), [0x77]) := by
  refine ⟨rfl, rfl, rfl, rfl, rfl, rfl, rfl, rfl, rfl, rfl, rfl, rfl⟩

/-- Encodings lines of RLA to SBC (30_encoding.md rule R143, spec/opcode_table.json). -/
theorem test_decode_7 :
    decode [0x3F, 0x34, 0x12, 0x77] = .ok ((.rla (.absx 0x1234)), [0x77]) ∧
    decode [0x26, 0x9C, 0x77] = .ok ((.rol (.zp 0x9C)), [0x77]) ∧
    decode [0x3E, 0x34, 0x12, 0x77] = .ok ((.rol (.absx 0x1234)), [0x77]) ∧
    decode [0x66, 0x9C, 0x77] = .ok ((.ror (.zp 0x9C)), [0x77]) ∧
    decode [0x7E, 0x34, 0x12, 0x77] = .ok ((.ror (.absx 0x1234)), [0x77]) ∧
    decode [0x63, 0x9C, 0x77] = .ok ((.rra (.indx 0x9C)), [0x77]) ∧
    decode [0x7F, 0x34, 0x12, 0x77] = .ok ((.rra (.absx 0x1234)), [0x77]) ∧
    decode [0x40, 0x77] = .ok (.rti, [0x77]) ∧
    decode [0x60, 0x77] = .ok (.rts, [0x77]) ∧
    decode [0x83, 0x9C, 0x77] = .ok ((.sax (.indx 0x9C)), [0x77]) ∧
    decode [0x97, 0x9C, 0x77] = .ok ((.sax (.zpy 0x9C)), [0x77]) ∧
    decode [0xE1, 0x9C, 0x77] = .ok ((.sbc (.indx 0x9C)), [0x77]) := by
  refine ⟨rfl, rfl, rfl, rfl, rfl, rfl, rfl, rfl, rfl, rfl, rfl, rfl⟩

/-- Encodings lines of SBC to STA (30_encoding.md rule R143, spec/opcode_table.json). -/
theorem test_decode_8 :
    decode [0xFD, 0x34, 0x12, 0x77] = .ok ((.sbc (.absx 0x1234)), [0x77]) ∧
    decode [0x38, 0x77] = .ok (.sec, [0x77]) ∧
    decode [0xF8, 0x77] = .ok (.sed, [0x77]) ∧
    decode [0x78, 0x77] = .ok (.sei, [0x77]) ∧
    decode [0x80, 0x9C, 0x77] = .ok ((.skb 0x80 0x9C), [0x77]) ∧
    decode [0xE2, 0x9C, 0x77] = .ok ((.skb 0xE2 0x9C), [0x77]) ∧
    decode [0x03, 0x9C, 0x77] = .ok ((.slo (.indx 0x9C)), [0x77]) ∧
    decode [0x1F, 0x34, 0x12, 0x77] = .ok ((.slo (.absx 0x1234)), [0x77]) ∧
    decode [0x43, 0x9C, 0x77] = .ok ((.sre (.indx 0x9C)), [0x77]) ∧
    decode [0x5F, 0x34, 0x12, 0x77] = .ok ((.sre (.absx 0x1234)), [0x77]) ∧
    decode [0x81, 0x9C, 0x77] = .ok ((.sta (.indx 0x9C)), [0x77]) ∧
    decode [0x9D, 0x34, 0x12, 0x77] = .ok ((.sta (.absx 0x1234)), [0x77]) := by
  refine ⟨rfl, rfl, rfl, rfl, rfl, rfl, rfl, rfl, rfl, rfl, rfl, rfl⟩

/-- Encodings lines of STX to TYA (30_encoding.md rule R143, spec/opcode_table.json). -/
theorem test_decode_9 :
    decode [0x86, 0x9C, 0x77] = .ok ((.stx (.zp 0x9C)), [0x77]) ∧
    decode [0x96, 0x9C, 0x77] = .ok ((.stx (.zpy 0x9C)), [0x77]) ∧
    decode [0x84, 0x9C, 0x77] = .ok ((.sty (.zp 0x9C)), [0x77]) ∧
    decode [0x94, 0x9C, 0x77] = .ok ((.sty (.zpx 0x9C)), [0x77]) ∧
    decode [0xAA, 0x77] = .ok (.tax, [0x77]) ∧
    decode [0xA8, 0x77] = .ok (.tay, [0x77]) ∧
    decode [0xBA, 0x77] = .ok (.tsx, [0x77]) ∧
    decode [0x8A, 0x77] = .ok (.txa, [0x77]) ∧
    decode [0x9A, 0x77] = .ok (.txs, [0x77]) ∧
    decode [0x98, 0x77] = .ok (.tya, [0x77]) := by
  refine ⟨rfl, rfl, rfl, rfl, rfl, rfl, rfl, rfl, rfl, rfl⟩

/-- Bit numbering of the opcode table: the first byte is bits 7..0, operand bytes above `nbits` are 0. -/
theorem test_decodeTableWord :
    decodeTableWord 24 0x03008D = some (.sta (.abs 0x0300)) ∧ decodeTableWord 8 0x44A9 = some (.lda (.imm 0)) ∧
    decodeTableWord 8 0xEA = some (.nop 0xEA) := by decide +kernel

/-- Too few bytes. -/
theorem test_decode_short : decode [] = .error .noOpcode ∧ decode [0x8D, 0x00] = .error (.missingOperand 0x8D) := ⟨rfl, rfl⟩

/-! Single instructions. -/

/-- A machine in a frame with these registers, status byte and memory bytes. -/
def start (pc : Word) (a x y sp p : Byte) (mem : List (Word × Byte)) : State :=
  mem.foldl (fun s e => s.place e.1 e.2)
    { State.reset with cpu := { a := a, x := x, y := y, sp := sp, pc := pc, flags := Flags.ofByte p }, loaded := true, inFrame := true }

/-- A view of the next state of an instruction. -/
def ran {α : Type} (i : Instr) (s : State) (view : State → α) : Option α :=
  match exec i s with
  | .next t => some (view t)
  | _ => none

/-- A view of the next state of a step. -/
def stepped {α : Type} (s : State) (view : State → α) : Option α :=
  match step s with
  | .next t => some (view t)
  | _ => none

theorem test_lda_L9 : ran (.lda (.indx 0xFE)) (start 0x8000 0x00 0x01 0x00 0xFF 0x20 [(0x00FF, 0x34), (0x0100, 0x12), (0x1234, 0xAB), (0x0000, 0x77)])
    (fun t => (t.cpu.a, t.cpu.flags.toByte, t.stepCycles)) = some (0xAB, 0xA0, 6) := by decide +kernel

theorem test_lda_L13 : ran (.lda (.indy 0xFF)) (start 0x8000 0x00 0x00 0x01 0xFF 0x20 [(0x00FF, 0xFF), (0x0100, 0x02), (0x0300, 0x42), (0x0000, 0x05)])
    (fun t => (t.cpu.a, t.cpu.flags.toByte, t.stepCycles)) = some (0x42, 0x20, 6) := by decide +kernel

theorem test_ldx_L14 : ran (.ldx (.zpy 0xFE)) (start 0x8000 0x00 0x00 0x05 0xFF 0x20 [(0x0003, 0x80)])
    (fun t => (t.cpu.x, t.cpu.flags.toByte, t.stepCycles)) = some (0x80, 0xA0, 4) := by decide +kernel

theorem test_ldx_L15 : ran (.ldx (.absy 0x0280)) (start 0x8000 0x00 0x00 0x80 0xFF 0x20 [(0x0300, 0x00)])
    (fun t => (t.cpu.flags.toByte, t.stepCycles)) = some (0x22, 5) := by decide +kernel

theorem test_ldy_L16 : ran (.ldy (.absx 0x0280)) (start 0x8000 0x00 0x80 0x00 0xFF 0x20 [(0x0300, 0x01)])
    (fun t => (t.cpu.y, t.cpu.flags.toByte, t.stepCycles)) = some (0x01, 0x20, 5) := by decide +kernel

theorem test_sta_L19 : ran (.sta (.indy 0x10)) (start 0x8000 0x5A 0x00 0x10 0xFF 0x20 [(0x0010, 0xF8), (0x0011, 0x02)])
    (fun t => (t.peek 0x0308, t.cpu.flags.toByte, t.stepCycles)) = some (0x5A, 0x20, 6) := by decide +kernel

theorem test_sta_L22 : ran (.sta (.zp 0x10)) (start 0x8000 0x00 0x00 0x00 0xFF 0xA0 [])
    (fun t => (t.peek 0x0010, t.cpu.flags.toByte, t.stepCycles)) = some (0x00, 0xA0, 3) := by decide +kernel

theorem test_stx_L23 : ran (.stx (.zpy 0xFF)) (start 0x8000 0x00 0x77 0x02 0xFF 0x20 [])
    (fun t => (t.peek 0x0001, t.cpu.flags.toByte, t.stepCycles)) = some (0x77, 0x20, 4) := by decide +kernel

theorem test_sty_L24 : ran (.sty (.zpx 0xFF)) (start 0x8000 0x00 0x02 0x77 0xFF 0x20 [])
    (fun t => (t.peek 0x0001, t.cpu.flags.toByte, t.stepCycles)) = some (0x77, 0x20, 4) := by decide +kernel

theorem test_tax_L25 : ran .tax (start 0x8000 0x80 0x00 0x00 0xFF 0x20 [])
    (fun t => (t.cpu.x, t.cpu.flags.toByte, t.stepCycles)) = some (0x80, 0xA0, 2) := by decide +kernel

theorem test_tay_L26 : ran .tay (start 0x8000 0x00 0x00 0x55 0xFF 0x20 [])
    (fun t => (t.cpu.y, t.cpu.flags.toByte, t.stepCycles)) = some (0x00, 0x22, 2) := by decide +kernel

theorem test_tsx_L27 : ran .tsx (start 0x8000 0x00 0x00 0x00 0xFF 0x20 [])
    (fun t => (t.cpu.x, t.cpu.flags.toByte, t.stepCycles)) = some (0xFF, 0xA0, 2) := by decide +kernel

theorem test_txa_L28 : ran .txa (start 0x8000 0xFF 0x01 0x00 0xFF 0xA0 [])
    (fun t => (t.cpu.a, t.cpu.flags.toByte, t.stepCycles)) = some (0x01, 0x20, 2) := by decide +kernel

theorem test_txs_L29 : ran .txs (start 0x8000 0x00 0x00 0x00 0xFF 0xA0 [])
    (fun t => (t.cpu.sp, t.cpu.flags.toByte, t.stepCycles)) = some (0x00, 0xA0, 2) := by decide +kernel

theorem test_tya_L30 : ran .tya (start 0x8000 0x00 0x00 0x90 0xFF 0x20 [])
    (fun t => (t.cpu.a, t.cpu.flags.toByte, t.stepCycles)) = some (0x90, 0xA0, 2) := by decide +kernel

theorem test_lax_L31 : ran (.lax (.zp 0x10)) (start 0x8000 0x00 0x00 0x00 0xFF 0x20 [(0x0010, 0x8F)])
    (fun t => (t.cpu.a, t.cpu.x, t.cpu.flags.toByte, t.stepCycles)) = some (0x8F, 0x8F, 0xA0, 3) := by decide +kernel

theorem test_lax_L32 : ran (.lax (.absy 0x02FF)) (start 0x8000 0x00 0x00 0x01 0xFF 0x20 [(0x0300, 0x00)])
    (fun t => (t.cpu.flags.toByte, t.stepCycles)) = some (0x22, 5) := by decide +kernel

theorem test_sax_L33 : ran (.sax (.zp 0x10)) (start 0x8000 0xF0 0x3C 0x00 0xFF 0x20 [])
    (fun t => (t.peek 0x0010, t.cpu.flags.toByte, t.stepCycles)) = some (0x30, 0x20, 3) := by decide +kernel

theorem test_sax_L34 : ran (.sax (.zpy 0xFF)) (start 0x8000 0xFF 0x0F 0x01 0xFF 0x20 [])
    (fun t => (t.peek 0x0000, t.cpu.flags.toByte, t.stepCycles)) = some (0x0F, 0x20, 4) := by decide +kernel

theorem test_adc_A1 : ran (.adc (.imm 0x01)) (start 0x8000 0x7F 0x00 0x00 0xFF 0x20 [])
    (fun t => (t.cpu.a, t.cpu.flags.toByte, t.stepCycles)) = some (0x80, 0xE0, 2) := by decide +kernel

theorem test_adc_A9 : ran (.adc (.indy 0x10)) (start 0x8000 0x01 0x00 0x10 0xFF 0x20 [(0x0010, 0xF8), (0x0011, 0x02), (0x0308, 0x01)])
    (fun t => (t.cpu.a, t.cpu.flags.toByte, t.stepCycles)) = some (0x02, 0x20, 6) := by decide +kernel

theorem test_sbc_A2 : ran (.sbc (.imm 0x01)) (start 0x8000 0x00 0x00 0x00 0xFF 0x21 [])
    (fun t => (t.cpu.a, t.cpu.flags.toByte, t.stepCycles)) = some (0xFF, 0xA0, 2) := by decide +kernel

theorem test_sbc_A15 : ran (.sbc (.indy 0x10)) (start 0x8000 0x05 0x00 0x10 0xFF 0x21 [(0x0010, 0xF8), (0x0011, 0x02), (0x0308, 0x01)])
    (fun t => (t.cpu.a, t.cpu.flags.toByte, t.stepCycles)) = some (0x04, 0x21, 5) := by decide +kernel

theorem test_and_A18 : ran (.and (.imm 0xF0)) (start 0x8000 0x0F 0x00 0x00 0xFF 0x20 [])
    (fun t => (t.cpu.a, t.cpu.flags.toByte, t.stepCycles)) = some (0x00, 0x22, 2) := by decide +kernel

theorem test_and_A19 : ran (.and (.indy 0x10)) (start 0x8000 0xFF 0x00 0x10 0xFF 0x20 [(0x0010, 0xF8), (0x0011, 0x02), (0x0308, 0x81)])
    (fun t => (t.cpu.a, t.cpu.flags.toByte, t.stepCycles)) = some (0x81, 0xA0, 5) := by decide +kernel

theorem test_ora_A20 : ran (.ora (.imm 0x80)) (start 0x8000 0x01 0x00 0x00 0xFF 0x20 [])
    (fun t => (t.cpu.a, t.cpu.flags.toByte, t.stepCycles)) = some (0x81, 0xA0, 2) := by decide +kernel

theorem test_ora_A21 : ran (.ora (.imm 0x00)) (start 0x8000 0x00 0x00 0x00 0xFF 0x20 [])
    (fun t => (t.cpu.flags.toByte, t.stepCycles)) = some (0x22, 2) := by decide +kernel

theorem test_eor_A22 : ran (.eor (.imm 0xF0)) (start 0x8000 0x0F 0x00 0x00 0xFF 0x20 [])
    (fun t => (t.cpu.a, t.cpu.flags.toByte, t.stepCycles)) = some (0xFF, 0xA0, 2) := by decide +kernel

theorem test_eor_A24 : ran (.eor (.indy 0x10)) (start 0x8000 0xFF 0x00 0x10 0xFF 0x20 [(0x0010, 0xF8), (0x0011, 0x02), (0x0308, 0x0F)])
    (fun t => (t.cpu.a, t.cpu.flags.toByte, t.stepCycles)) = some (0xF0, 0xA0, 6) := by decide +kernel

theorem test_cmp_A26 : ran (.cmp (.imm 0x40)) (start 0x8000 0x40 0x00 0x00 0xFF 0x60 [])
    (fun t => (t.cpu.flags.toByte, t.stepCycles)) = some (0x63, 2) := by decide +kernel

theorem test_cmp_A28 : ran (.cmp (.imm 0x80)) (start 0x8000 0x00 0x00 0x00 0xFF 0x21 [])
    (fun t => (t.cpu.flags.toByte, t.stepCycles)) = some (0xA0, 2) := by decide +kernel

theorem test_cpx_A30 : ran (.cpx (.imm 0x01)) (start 0x8000 0x00 0x00 0x00 0xFF 0x21 [])
    (fun t => (t.cpu.flags.toByte, t.stepCycles)) = some (0xA0, 2) := by decide +kernel

theorem test_cpx_A29 : ran (.cpx (.imm 0x0F)) (start 0x8000 0x00 0x10 0x00 0xFF 0x20 [])
    (fun t => (t.cpu.flags.toByte, t.stepCycles)) = some (0x21, 2) := by decide +kernel

theorem test_cpy_A31 : ran (.cpy (.imm 0xFF)) (start 0x8000 0x00 0x00 0xFF 0xFF 0x20 [])
    (fun t => (t.cpu.flags.toByte, t.stepCycles)) = some (0x23, 2) := by decide +kernel

theorem test_cpy_A32 : ran (.cpy (.abs 0x0300)) (start 0x8000 0x00 0x00 0x7F 0xFF 0x20 [(0x0300, 0x80)])
    (fun t => (t.cpu.flags.toByte, t.stepCycles)) = some (0xA0, 4) := by decide +kernel

theorem test_bit_A33 : ran (.bit (.zp 0x10)) (start 0x8000 0x0F 0x00 0x00 0xFF 0x20 [(0x0010, 0xC0)])
    (fun t => (t.cpu.flags.toByte, t.stepCycles)) = some (0xE2, 3) := by decide +kernel

theorem test_bit_A34 : ran (.bit (.abs 0x0300)) (start 0x8000 0xFF 0x00 0x00 0xFF 0xA0 [(0x0300, 0x40)])
    (fun t => (t.cpu.flags.toByte, t.stepCycles)) = some (0x60, 4) := by decide +kernel

theorem test_alr_A36 : ran (.alr 0x03) (start 0x8000 0xFF 0x00 0x00 0xFF 0x20 [])
    (fun t => (t.cpu.a, t.cpu.flags.toByte, t.stepCycles)) = some (0x01, 0x21, 2) := by decide +kernel

theorem test_alr_A37 : ran (.alr 0x01) (start 0x8000 0x01 0x00 0x00 0xFF 0x20 [])
    (fun t => (t.cpu.a, t.cpu.flags.toByte, t.stepCycles)) = some (0x00, 0x23, 2) := by decide +kernel

theorem test_anc_A38 : ran (.anc 0x0B 0x80) (start 0x8000 0xFF 0x00 0x00 0xFF 0x20 [])
    (fun t => (t.cpu.a, t.cpu.flags.toByte, t.stepCycles)) = some (0x80, 0xA1, 2) := by decide +kernel

theorem test_anc_A39 : ran (.anc 0x2B 0xFF) (start 0x8000 0x7F 0x00 0x00 0xFF 0x21 [])
    (fun t => (t.cpu.flags.toByte, t.stepCycles)) = some (0x20, 2) := by decide +kernel

theorem test_arr_A43 : ran (.arr 0x40) (start 0x8000 0xFF 0x00 0x00 0xFF 0x21 [])
    (fun t => (t.cpu.a, t.cpu.flags.toByte, t.stepCycles)) = some (0xA0, 0xE0, 2) := by decide +kernel

theorem test_arr_A44 : ran (.arr 0xFF) (start 0x8000 0x00 0x00 0x00 0xFF 0x60 [])
    (fun t => (t.cpu.flags.toByte, t.stepCycles)) = some (0x22, 2) := by decide +kernel

theorem test_axs_A47 : ran (.axs 0x04) (start 0x8000 0x0F 0x03 0x00 0xFF 0x21 [])
    (fun t => (t.cpu.x, t.cpu.flags.toByte, t.stepCycles)) = some (0xFF, 0xA0, 2) := by decide +kernel

theorem test_axs_A48 : ran (.axs 0x01) (start 0x8000 0xFF 0x80 0x00 0xFF 0x20 [])
    (fun t => (t.cpu.x, t.cpu.flags.toByte, t.stepCycles)) = some (0x7F, 0x61, 2) := by decide +kernel

theorem test_asl_S1 : ran (.asl .acc) (start 0x8000 0x81 0x00 0x00 0xFF 0x20 [])
    (fun t => (t.cpu.a, t.cpu.flags.toByte, t.stepCycles)) = some (0x02, 0x21, 2) := by decide +kernel

theorem test_asl_S4 : ran (.asl (.absx 0x02FF)) (start 0x8000 0x00 0x01 0x00 0xFF 0x20 [(0x0300, 0x40)])
    (fun t => (t.peek 0x0300, t.cpu.flags.toByte, t.stepCycles)) = some (0x80, 0xA0, 7) := by decide +kernel

theorem test_lsr_S5 : ran (.lsr .acc) (start 0x8000 0xFF 0x00 0x00 0xFF 0x20 [])
    (fun t => (t.cpu.a, t.cpu.flags.toByte, t.stepCycles)) = some (0x7F, 0x21, 2) := by decide +kernel

theorem test_lsr_S6 : ran (.lsr (.zp 0x10)) (start 0x8000 0x00 0x00 0x00 0xFF 0xA0 [(0x0010, 0x01)])
    (fun t => (t.peek 0x0010, t.cpu.flags.toByte, t.stepCycles)) = some (0x00, 0x23, 5) := by decide +kernel

theorem test_rol_S7 : ran (.rol (.abs 0x0300)) (start 0x8000 0x00 0x00 0x00 0xFF 0x21 [(0x0300, 0x7F)])
    (fun t => (t.peek 0x0300, t.cpu.flags.toByte, t.stepCycles)) = some (0xFF, 0xA0, 6) := by decide +kernel

theorem test_rol_S9 : ran (.rol .acc) (start 0x8000 0x80 0x00 0x00 0xFF 0x21 [])
    (fun t => (t.cpu.a, t.cpu.flags.toByte, t.stepCycles)) = some (0x01, 0x21, 2) := by decide +kernel

theorem test_ror_S10 : ran (.ror .acc) (start 0x8000 0x01 0x00 0x00 0xFF 0x21 [])
    (fun t => (t.cpu.a, t.cpu.flags.toByte, t.stepCycles)) = some (0x80, 0xA1, 2) := by decide +kernel

theorem test_ror_S12 : ran (.ror (.zpx 0xFF)) (start 0x8000 0x00 0x02 0x00 0xFF 0x21 [(0x0001, 0x00)])
    (fun t => (t.peek 0x0001, t.cpu.flags.toByte, t.stepCycles)) = some (0x80, 0xA0, 6) := by decide +kernel

theorem test_inc_S13 : ran (.inc (.zp 0x10)) (start 0x8000 0x00 0x00 0x00 0xFF 0x61 [(0x0010, 0xFF)])
    (fun t => (t.peek 0x0010, t.cpu.flags.toByte, t.stepCycles)) = some (0x00, 0x63, 5) := by decide +kernel

theorem test_inc_S14 : ran (.inc (.abs 0x0300)) (start 0x8000 0x00 0x00 0x00 0xFF 0x20 [(0x0300, 0x7F)])
    (fun t => (t.peek 0x0300, t.cpu.flags.toByte, t.stepCycles)) = some (0x80, 0xA0, 6) := by decide +kernel

theorem test_dec_S15 : ran (.dec (.zp 0x10)) (start 0x8000 0x00 0x00 0x00 0xFF 0x20 [(0x0010, 0x00)])
    (fun t => (t.peek 0x0010, t.cpu.flags.toByte, t.stepCycles)) = some (0xFF, 0xA0, 5) := by decide +kernel

theorem test_dec_S16 : ran (.dec (.absx 0x02FF)) (start 0x8000 0x00 0x01 0x00 0xFF 0x20 [(0x0300, 0x01)])
    (fun t => (t.peek 0x0300, t.cpu.flags.toByte, t.stepCycles)) = some (0x00, 0x22, 7) := by decide +kernel

theorem test_inx_S17 : ran .inx (start 0x8000 0x00 0xFF 0x00 0xFF 0x20 [])
    (fun t => (t.cpu.x, t.cpu.flags.toByte, t.stepCycles)) = some (0x00, 0x22, 2) := by decide +kernel

theorem test_inx_S18 : ran .inx (start 0x8000 0x00 0x7F 0x00 0xFF 0x20 [])
    (fun t => (t.cpu.x, t.cpu.flags.toByte, t.stepCycles)) = some (0x80, 0xA0, 2) := by decide +kernel

theorem test_iny_S19 : ran .iny (start 0x8000 0x00 0x00 0xFF 0xFF 0x20 [])
    (fun t => (t.cpu.y, t.cpu.flags.toByte, t.stepCycles)) = some (0x00, 0x22, 2) := by decide +kernel

theorem test_dex_S20 : ran .dex (start 0x8000 0x00 0x00 0x00 0xFF 0x20 [])
    (fun t => (t.cpu.x, t.cpu.flags.toByte, t.stepCycles)) = some (0xFF, 0xA0, 2) := by decide +kernel

theorem test_dex_S21 : ran .dex (start 0x8000 0x00 0x01 0x00 0xFF 0x20 [])
    (fun t => (t.cpu.x, t.cpu.flags.toByte, t.stepCycles)) = some (0x00, 0x22, 2) := by decide +kernel

theorem test_dey_S22 : ran .dey (start 0x8000 0x00 0x00 0x00 0xFF 0x20 [])
    (fun t => (t.cpu.y, t.cpu.flags.toByte, t.stepCycles)) = some (0xFF, 0xA0, 2) := by decide +kernel

theorem test_slo_S24 : ran (.slo (.zp 0x10)) (start 0x8000 0x00 0x00 0x00 0xFF 0x20 [(0x0010, 0x80)])
    (fun t => (t.peek 0x0010, t.cpu.flags.toByte, t.stepCycles)) = some (0x00, 0x23, 5) := by decide +kernel

theorem test_slo_S37 : ran (.slo (.absy 0x02FF)) (start 0x8000 0x00 0x00 0x01 0xFF 0x20 [(0x0300, 0x01)])
    (fun t => (t.cpu.a, t.peek 0x0300, t.cpu.flags.toByte, t.stepCycles)) = some (0x02, 0x02, 0x20, 8) := by decide +kernel

theorem test_sre_S25 : ran (.sre (.zp 0x10)) (start 0x8000 0x01 0x00 0x00 0xFF 0x20 [(0x0010, 0x03)])
    (fun t => (t.cpu.a, t.peek 0x0010, t.cpu.flags.toByte, t.stepCycles)) = some (0x00, 0x01, 0x23, 5) := by decide +kernel

theorem test_sre_S38 : ran (.sre (.indx 0xFF)) (start 0x8000 0xFF 0x01 0x00 0xFF 0x20 [(0x0000, 0x00), (0x0001, 0x03), (0x0300, 0x02)])
    (fun t => (t.cpu.a, t.peek 0x0300, t.cpu.flags.toByte, t.stepCycles)) = some (0xFE, 0x01, 0xA0, 9) := by decide +kernel

theorem test_rla_S26 : ran (.rla (.zp 0x10)) (start 0x8000 0xFF 0x00 0x00 0xFF 0x21 [(0x0010, 0x80)])
    (fun t => (t.cpu.a, t.peek 0x0010, t.cpu.flags.toByte, t.stepCycles)) = some (0x01, 0x01, 0x21, 5) := by decide +kernel

theorem test_rra_S28 : ran (.rra (.zp 0x10)) (start 0x8000 0x7F 0x00 0x00 0xFF 0x20 [(0x0010, 0x01)])
    (fun t => (t.cpu.a, t.peek 0x0010, t.cpu.flags.toByte, t.stepCycles)) = some (0x80, 0x00, 0xE0, 5) := by decide +kernel

theorem test_rra_S29 : ran (.rra (.zp 0x10)) (start 0x8000 0x01 0x00 0x00 0xFF 0x21 [(0x0010, 0xFF)])
    (fun t => (t.peek 0x0010, t.cpu.flags.toByte, t.stepCycles)) = some (0xFF, 0x21, 5) := by decide +kernel

theorem test_dcp_S31 : ran (.dcp (.zp 0x10)) (start 0x8000 0x40 0x00 0x00 0xFF 0x21 [(0x0010, 0x00)])
    (fun t => (t.peek 0x0010, t.cpu.flags.toByte, t.stepCycles)) = some (0xFF, 0x20, 5) := by decide +kernel

theorem test_dcp_S36 : ran (.dcp (.indy 0x10)) (start 0x8000 0x40 0x00 0x10 0xFF 0x20 [(0x0010, 0xF8), (0x0011, 0x02), (0x0308, 0x41)])
    (fun t => (t.peek 0x0308, t.cpu.flags.toByte, t.stepCycles)) = some (0x40, 0x23, 8) := by decide +kernel

theorem test_isc_S34 : ran (.isc (.zp 0x10)) (start 0x8000 0x10 0x00 0x00 0xFF 0x20 [(0x0010, 0x0F)])
    (fun t => (t.cpu.a, t.peek 0x0010, t.cpu.flags.toByte, t.stepCycles)) = some (0xFF, 0x10, 0xA0, 5) := by decide +kernel

theorem test_isc_S35 : ran (.isc (.absx 0x02FF)) (start 0x8000 0x00 0x01 0x00 0xFF 0x21 [(0x0300, 0x00)])
    (fun t => (t.cpu.a, t.peek 0x0300, t.cpu.flags.toByte, t.stepCycles)) = some (0xFF, 0x01, 0xA0, 8) := by decide +kernel

theorem test_bcc_B1 : ran (.bcc 0x20) (start 0x80F0 0x00 0x00 0x00 0xFF 0x20 [])
    (fun t => (t.cpu.pc, t.stepCycles)) = some (0x8112, 4) := by decide +kernel

theorem test_bcc_B2 : ran (.bcc 0x20) (start 0x80F0 0x00 0x00 0x00 0xFF 0x21 [])
    (fun t => (t.cpu.pc, t.stepCycles)) = some (0x80F2, 2) := by decide +kernel

theorem test_bcs_B3 : ran (.bcs 0xFB) (start 0x8000 0x00 0x00 0x00 0xFF 0x21 [])
    (fun t => (t.cpu.pc, t.stepCycles)) = some (0x7FFD, 4) := by decide +kernel

theorem test_beq_B4 : ran (.beq 0xFC) (start 0x8010 0x00 0x00 0x00 0xFF 0x22 [])
    (fun t => (t.cpu.pc, t.stepCycles)) = some (0x800E, 3) := by decide +kernel

theorem test_bne_B10 : ran (.bne 0x05) (start 0xFFFE 0x00 0x00 0x00 0xFF 0x20 [])
    (fun t => (t.cpu.pc, t.stepCycles)) = some (0x0005, 3) := by decide +kernel

theorem test_bne_B11 : ran (.bne 0xFD) (start 0x80FF 0x00 0x00 0x00 0xFF 0x20 [])
    (fun t => (t.cpu.pc, t.stepCycles)) = some (0x80FE, 4) := by decide +kernel

theorem test_bmi_B6 : ran (.bmi 0x7F) (start 0x80FD 0x00 0x00 0x00 0xFF 0xA0 [])
    (fun t => (t.cpu.pc, t.stepCycles)) = some (0x817E, 4) := by decide +kernel

theorem test_bpl_B7 : ran (.bpl 0x00) (start 0x80FE 0x00 0x00 0x00 0xFF 0x20 [])
    (fun t => (t.cpu.pc, t.stepCycles)) = some (0x8100, 3) := by decide +kernel

theorem test_bvc_B8 : ran (.bvc 0x80) (start 0x807E 0x00 0x00 0x00 0xFF 0x20 [])
    (fun t => (t.cpu.pc, t.stepCycles)) = some (0x8000, 3) := by decide +kernel

theorem test_bvs_B9 : ran (.bvs 0xFE) (start 0x8000 0x00 0x00 0x00 0xFF 0x60 [])
    (fun t => (t.cpu.pc, t.stepCycles)) = some (0x8000, 3) := by decide +kernel

theorem test_jmp_J2 : ran (.jmp (.ind 0x02FF)) (start 0x8000 0x00 0x00 0x00 0xFF 0x20 [(0x02FF, 0x78), (0x0200, 0x56), (0x0300, 0x99)])
    (fun t => (t.cpu.pc, t.stepCycles)) = some (0x5678, 5) := by decide +kernel

theorem test_jmp_J1 : ran (.jmp (.abs 0x1234)) (start 0x8000 0x00 0x00 0x00 0xFF 0x20 [])
    (fun t => (t.cpu.pc, t.stepCycles)) = some (0x1234, 3) := by decide +kernel

theorem test_jsr_J4 : ran (.jsr 0x9000) (start 0x8000 0x00 0x00 0x00 0xFF 0x20 [])
    (fun t => (t.cpu.pc, t.cpu.sp, t.peek 0x01FE, t.stepCycles)) = some (0x9000, 0xFD, 0x02, 6) := by decide +kernel

theorem test_jsr_J5 : ran (.jsr 0x9000) (start 0x8000 0x00 0x00 0x00 0x00 0x20 [])
    (fun t => (t.cpu.pc, t.cpu.sp, t.peek 0x01FF, t.stepCycles)) = some (0x9000, 0xFE, 0x02, 6) := by decide +kernel

theorem test_rts_J6 : ran .rts (start 0x9000 0x00 0x00 0x00 0xFD 0x20 [(0x01FE, 0x02), (0x01FF, 0x80)])
    (fun t => (t.cpu.pc, t.cpu.sp, t.stepCycles)) = some (0x8003, 0xFF, 6) := by decide +kernel

theorem test_rts_J7 : ran .rts (start 0x9000 0x00 0x00 0x00 0xFD 0x20 [(0x01FE, 0xFF), (0x01FF, 0xFF)])
    (fun t => (t.cpu.pc, t.cpu.sp, t.stepCycles)) = some (0x0000, 0xFF, 6) := by decide +kernel

theorem test_brk_J8 : ran .brk (start 0x8000 0x00 0x00 0x00 0xFF 0x29 [(0xFFFE, 0x00), (0xFFFF, 0x90)])
    (fun t => (t.cpu.pc, t.cpu.sp, t.peek 0x01FD, t.stepCycles)) = some (0x9000, 0xFC, 0x39, 7) := by decide +kernel

theorem test_brk_J9 : ran .brk (start 0x8000 0x00 0x00 0x00 0xFF 0x24 [(0xFFFE, 0x00), (0xFFFF, 0x90)])
    (fun t => (t.cpu.pc, t.cpu.sp, t.peek 0x01FD, t.stepCycles)) = some (0x9000, 0xFC, 0x34, 7) := by decide +kernel

theorem test_rti_J10 : ran .rti (start 0x9000 0x00 0x00 0x00 0xFC 0x34 [(0x01FD, 0xC3), (0x01FE, 0x34), (0x01FF, 0x12)])
    (fun t => (t.cpu.pc, t.cpu.sp, t.cpu.flags.toByte, t.stepCycles)) = some (0x1234, 0xFF, 0xE3, 6) := by decide +kernel

theorem test_rti_J12 : ran .rti (start 0x9000 0x00 0x00 0x00 0xFC 0x20 [(0x01FD, 0xFF), (0x01FE, 0x02), (0x01FF, 0x80)])
    (fun t => (t.cpu.pc, t.cpu.sp, t.cpu.flags.toByte, t.stepCycles)) = some (0x8002, 0xFF, 0xFF, 6) := by decide +kernel

theorem test_clc_F1 : ran .clc (start 0x8000 0x00 0x00 0x00 0xFF 0x21 [])
    (fun t => (t.cpu.flags.toByte, t.stepCycles)) = some (0x20, 2) := by decide +kernel

theorem test_sec_F2 : ran .sec (start 0x8000 0x00 0x00 0x00 0xFF 0x28 [])
    (fun t => (t.cpu.flags.toByte, t.stepCycles)) = some (0x29, 2) := by decide +kernel

theorem test_cli_F3 : ran .cli (start 0x8000 0x00 0x00 0x00 0xFF 0x24 [])
    (fun t => (t.cpu.flags.toByte, t.stepCycles)) = some (0x20, 2) := by decide +kernel

theorem test_sei_F4 : ran .sei (start 0x8000 0x00 0x00 0x00 0xFF 0x28 [])
    (fun t => (t.cpu.flags.toByte, t.stepCycles)) = some (0x2C, 2) := by decide +kernel

theorem test_cld_F5 : ran .cld (start 0x8000 0x00 0x00 0x00 0xFF 0x28 [])
    (fun t => (t.cpu.flags.toByte, t.stepCycles)) = some (0x20, 2) := by decide +kernel

theorem test_sed_F6 : ran .sed (start 0x8000 0x00 0x00 0x00 0xFF 0x20 [])
    (fun t => (t.cpu.flags.toByte, t.stepCycles)) = some (0x28, 2) := by decide +kernel

theorem test_clv_F7 : ran .clv (start 0x8000 0x00 0x00 0x00 0xFF 0x60 [])
    (fun t => (t.cpu.flags.toByte, t.stepCycles)) = some (0x20, 2) := by decide +kernel

theorem test_pha_F8 : ran .pha (start 0x8000 0x42 0x00 0x00 0xFF 0x20 [])
    (fun t => (t.cpu.sp, t.peek 0x01FF, t.cpu.flags.toByte, t.stepCycles)) = some (0xFE, 0x42, 0x20, 3) := by decide +kernel

theorem test_pha_F9 : ran .pha (start 0x8000 0x42 0x00 0x00 0x00 0x20 [])
    (fun t => (t.cpu.sp, t.peek 0x0100, t.cpu.flags.toByte, t.stepCycles)) = some (0xFF, 0x42, 0x20, 3) := by decide +kernel

theorem test_pla_F10 : ran .pla (start 0x8000 0x01 0x00 0x00 0xFE 0x20 [(0x01FF, 0x80)])
    (fun t => (t.cpu.a, t.cpu.sp, t.cpu.flags.toByte, t.stepCycles)) = some (0x80, 0xFF, 0xA0, 4) := by decide +kernel

theorem test_pla_F11 : ran .pla (start 0x8000 0x01 0x00 0x00 0xFF 0x20 [(0x0100, 0x00)])
    (fun t => (t.cpu.a, t.cpu.sp, t.cpu.flags.toByte, t.stepCycles)) = some (0x00, 0x00, 0x22, 4) := by decide +kernel

theorem test_php_F12 : ran .php (start 0x8000 0x00 0x00 0x00 0xFF 0xA9 [])
    (fun t => (t.cpu.sp, t.peek 0x01FF, t.cpu.flags.toByte, t.stepCycles)) = some (0xFE, 0xB9, 0xB9, 3) := by decide +kernel

theorem test_plp_F13 : ran .plp (start 0x8000 0x00 0x00 0x00 0xFE 0x30 [(0x01FF, 0xCF)])
    (fun t => (t.cpu.sp, t.cpu.flags.toByte, t.stepCycles)) = some (0xFF, 0xEF, 4) := by decide +kernel

theorem test_plp_F14 : ran .plp (start 0x8000 0x00 0x00 0x00 0xFE 0xA1 [(0x01FF, 0x00)])
    (fun t => (t.cpu.sp, t.cpu.flags.toByte, t.stepCycles)) = some (0xFF, 0x20, 4) := by decide +kernel

theorem test_nop_F15 : ran (.nop 0xEA) (start 0x8000 0x00 0x00 0x00 0xFF 0xA1 [])
    (fun t => (t.cpu.pc, t.cpu.flags.toByte, t.stepCycles)) = some (0x8001, 0xA1, 2) := by decide +kernel

theorem test_nop_F16 : ran (.nop 0x1A) (start 0x8000 0x00 0x00 0x00 0xFF 0x20 [])
    (fun t => (t.cpu.pc, t.cpu.flags.toByte, t.stepCycles)) = some (0x8001, 0x20, 2) := by decide +kernel

theorem test_skb_F17 : ran (.skb 0x80 0xFF) (start 0x8000 0x00 0x00 0x00 0xFF 0x20 [])
    (fun t => (t.cpu.pc, t.cpu.flags.toByte, t.stepCycles)) = some (0x8002, 0x20, 2) := by decide +kernel

theorem test_ign_F18 : ran (.ign 0x1C (.absx 0x02FF)) (start 0x8000 0x00 0x01 0x00 0xFF 0x20 [(0x0300, 0x99)])
    (fun t => (t.cpu.pc, t.cpu.flags.toByte, t.stepCycles)) = some (0x8003, 0x20, 5) := by decide +kernel

theorem test_ign_F20 : ran (.ign 0x0C (.abs 0x0300)) (start 0x8000 0x00 0x00 0x00 0xFF 0x20 [(0x0300, 0x99)])
    (fun t => (t.cpu.pc, t.cpu.flags.toByte, t.stepCycles)) = some (0x8003, 0x20, 4) := by decide +kernel

/-- 60_exceptions.md rule R500: the halt reports the opcode's address and `PC` stays there. -/
theorem test_unfilled_halts : ran (.unfilled 0x02) (start 0x9000 0 0 0 0xFF 0x20 [])
    (fun t => (t.halted, t.cpu.pc, t.stepCycles, decide (t.events = [.halt 0x9000]))) = some (true, 0x9000, 8, true) := by decide +kernel

/-! Interrupts: one step from a pending request (vectors I1, I3, I4, I5). -/

/-- A pending request of a kind, the NMI enable bit, at 0x8123 with the handlers' first bytes. -/
def interrupted (k : IrqKind) (enable : Bool) (p : Byte) : State :=
  let s := start 0x8123 0 0 0 0xFD p
    [(0x8123, 0xEA), (0xFFFE, 0x00), (0xFFFF, 0x90), (0x9000, 0xE8), (0xFFFA, 0x00), (0xFFFB, 0xA0), (0xA000, 0xC8), (0xFFFC, 0x00), (0xFFFD, 0xC0), (0xC000, 0xA2), (0xC001, 0x07)]
  { s with irq := { pending := true, kind := k }, ppu := { s.ppu with f_nmiOnVblank := enable } }

theorem test_step_I1 : stepped (interrupted .normal false 0x22) (fun t => (t.cpu.pc, t.peek 0x01FD, t.peek 0x01FC, t.peek 0x01FB, t.cpu.flags.toByte)) =
    some (0x9001, 0x81, 0x23, 0x22, 0x24) := by decide +kernel

theorem test_step_I3 : stepped (interrupted .nonMaskable true 0x35) (fun t => (t.cpu.pc, t.cpu.y, t.peek 0x01FB, t.cpu.flags.toByte)) =
    some (0xA001, 0x01, 0x35, 0x35) := by decide +kernel

theorem test_step_I4 : stepped (interrupted .nonMaskable false 0x20) (fun t => (t.cpu.pc, t.cpu.sp, t.irq.pending)) =
    some (0x8124, 0xFD, false) := by decide +kernel

theorem test_step_I5 : stepped (interrupted .reset false 0x30) (fun t => (t.cpu.pc, t.cpu.x, t.cpu.sp, t.cpu.flags.toByte)) =
    some (0xC002, 0x07, 0xFD, 0x30) := by decide +kernel

/-! The bus and the devices. -/

/-- 45_ppu.md rule R330: the status port, at a mirror, clears the vblank flag and the toggle. -/
theorem test_status_port :
    let b := { State.reset.toBus with ppu := { State.reset.ppu with ppuStatus := 0xC0, firstWrite := false } }
    (b.read 0x3FFA).1 = 0xC0 ∧ (b.read 0x3FFA).2.ppu.ppuStatus = 0x40 ∧ (b.read 0x3FFA).2.ppu.firstWrite = true := by decide +kernel

/-- 45_ppu.md rule R343: a byte written at 0x3F10 is read at 0x3F00. -/
theorem test_palette_pair :
    (State.reset.ppu.vramWrite 0x3F10 0x21).vramRead 0x3F00 = 0x21 ∧ (State.reset.ppu.vramWrite 0x3F05 0x22).vramRead 0x3F15 = 0 := by
  decide +kernel

/-- 10_state.md rule R53 and decision D28: the reset table is the identity; 95_test_vectors.md U4 and U5: a set mode folds. -/
theorem test_mirror :
    [0x2C00, 0x3EFF, 0x3F20, 0x6400, 0x7FFF].map (mirrorAddr none) = [0x2C00, 0x3EFF, 0x3F20, 0x6400, 0x7FFF] ∧
    [0x2400, 0x2C00, 0x2FFF, 0x3EFF, 0x3F20, 0x3FFF, 0x6400, 0x5234].map (mirrorAddr (some .horizontal)) =
      [0x2000, 0x2800, 0x2BFF, 0x2AFF, 0x3F00, 0x3F1F, 0x2000, 0x1234] := by decide +kernel

/-- 45_ppu.md rule R338: sprite DMA wraps its destination and halts the CPU. -/
theorem test_sprite_dma :
    let b := (State.reset.toBus.setMem 0x0201 0x5A).write 0x2003 0xFF
    ((b.write 0x4014 0x02).ppu.spriteAt 0, (b.write 0x4014 0x02).haltCycles) = (0x5A, 513) := by decide +kernel

/-- 47_mapper_cartridge.md rule R450, the write to 0xC000: the counter of type 4. -/
theorem test_mapper4_counter :
    let b := { State.reset.toBus with cart := { Cart.absent with mapperType := 4 } }
    ((b.write 0xC000 0x05).write 0xE001 0).mapper.irqCounter = 5 ∧ ((b.write 0xC000 0x05).write 0xE001 0).mapper.irqEnable = true := by
  decide +kernel

/-- 46_apu.md rule R371: "41558 at 44100 Hz, 38181 at 48000 Hz", and a half-cycle count of 14915. -/
theorem test_rates : sampleTimerMax Config.default = 41558 ∧
    sampleTimerMax { Config.default with sampleRate := { num := 96000, den := 2 } } = 38181 ∧ frameTime Config.default = 14915 := by decide

/-- An open kind of type 5 whose read of 0x5000 returns the byte in `mem` and clears its interrupt enable, and whose write to 0x6000 keeps the
byte doubled in `mem` and calls the host. -/
def openSample : MapperKind where
  mapperType := 5
  regs := [7]
  kindWrite := []
  initialPrg := none
  initialChr := some []
  hasIrqCounter := true
  irqCounter := 3
  irqLatchValue := 2
  irqEnable := true
  latchAccess := []
  reads := [{ lo := 0x5000, hi := 0x5000, result := .mem .addr, effects := [.act (.setIrqEnable (.lit 0))] }]
  writes := [{ lo := 0x6000, hi := 0x6000, effects := [.storeMem .addr (.mul .value (.lit 2)), .persist .addr .value] }]

/-- The bus with that kind's cartridge. -/
def openBus : Bus :=
  let cfg := { Config.default with mapperKinds := [openSample] }
  { State.reset.toBus with cfg := cfg, cart := { Cart.absent with mapperType := 5 }, mapper := MapperRegs.reset cfg 5 }

/-- 20_memory.md rule R80, the row 0x4018..0xFFFF: "a mapper kind may add" a side effect to the read of `mem[addr]`. -/
theorem test_open_read : (openBus.mapper.irqCounter, openBus.mapper.irqEnable, ((openBus.setMem 0x5000 0x42).read 0x5000).1,
    ((openBus.setMem 0x5000 0x42).read 0x5000).2.mapper.irqEnable) = (3, true, 0x42, false) := by decide +kernel

/-- 47_mapper_cartridge.md rule R452: a replacement write. -/
theorem test_open_write : ((openBus.write 0x6000 0x21).memAt 0x6000, (openBus.write 0x6000 0x21).events) =
    (0x42, [.batteryWrite 0x6000 0x21]) := by decide +kernel

/-- 47_mapper_cartridge.md rule R440: the default power-on layout is that of "every kind that does not state its own"; a layout stated empty copies nothing. -/
theorem test_open_layout :
    let b := { openBus with cart := { Cart.absent with mapperType := 5, prgBanks := 1, rom := [[0x11]], chrBanks := 1, vrom := [[0x22]] } }
    (b.loadInitialPrg.memAt 0x8000, b.loadInitialPrg.memAt 0xC000, b.loadInitialChr.ppu.vramAt 0) = (0x11, 0x11, 0) := by decide +kernel

/-- 47_mapper_cartridge.md rule R443: the saved image, of 0x2000 bytes and with a battery. -/
theorem test_battery_ram :
    let b := { State.reset.toBus with cart := { Cart.absent with battery := true } }
    (b.loadBatteryRam (some (List.replicate 0x2000 0x5A))).memAt 0x7FFF = 0x5A ∧
    (b.loadBatteryRam (some [0x5A])).memAt 0x6000 = 0 := by decide +kernel

/-- 47_mapper_cartridge.md rule R433: the other reading of the trainer. -/
theorem test_trainer_offset : bankOffset Config.default.trainerOffset true = 16 ∧
    bankOffset { without := 0, withTrainer := 512 } true = 528 := by decide

/-- 48_scheduler_session.md rule R479: a frame without a cartridge is refused by `NotLoaded`. -/
theorem test_not_loaded : stepped State.reset (fun t => (decide (t.events = [.notLoaded]), t.inFrame)) = some (true, false) := by
  decide +kernel

/-- An instruction placed by `withFetchWord` is the one the next step runs. -/
theorem test_withFetchWord : stepped (State.reset.withFetchWord 16 0x42A9) (fun t => (t.cpu.a, t.cpu.pc)) = some (0x42, 0x8002) := by
  decide +kernel

/-! Witnesses: states and operands that meet the hypotheses of the statements. -/

theorem test_witness_encoding : WellFormed (.lda (.absx 0xFFFF)) = true ∧ decode [0xBD, 0xFF, 0xFF] = .ok (.lda (.absx 0xFFFF), []) ∧
    opdata 0xBD ≠ none ∧ opdata 0x02 = none := ⟨by decide, rfl, by decide +kernel, by decide +kernel⟩

/-- `Loads`: each clause about the operand. -/
theorem test_witness_operand : (.imm 0xFF : Operand) = .imm 0xFF ∧ (.indy 0xFF : Operand).mode ≠ .imm ∧ (.indy 0xFF : Operand) ≠ .acc := by decide

/-- `OpcodeTable`: the first and the last row. -/
theorem test_witness_rows : ((0x69, .imm, 2, 2) : Byte × Mode × Nat × Nat) ∈ tableRows .adc ∧
    ((0xFC, .absx, 3, 4) : Byte × Mode × Nat × Nat) ∈ tableRows .ign := by decide

/-- `IndexedModes` at the top of memory, in both forms. -/
theorem test_witness_indexed : ∃ (s : State) (base : Word) (index : Byte),
    index = s.cpu.x ∧ index = s.cpu.y ∧ base = 0xFFFF ∧ index = 1 := ⟨start 0x8000 0 1 1 0xFF 0x20 [], 0xFFFF, 1, by decide +kernel⟩

/-- `MemoryShifts`, `ShiftLogicCombinations`, `ArithmeticCombinations`. -/
theorem test_witness_memory_form : (.zp 0x10 : Operand) ≠ .acc ∧ (.imp : Operand) ≠ .acc := by decide

/-- `Jump`: the two bytes of a pointer at the end of a page, and in the middle of one. -/
theorem test_witness_pointer : (0x0200 : Word).toNat = (0x02FF : Word).toNat / 256 * 256 + ((0x02FF : Word).toNat + 1) % 256 ∧
    (0x0211 : Word).toNat = (0x0210 : Word).toNat / 256 * 256 + ((0x0210 : Word).toNat + 1) % 256 := by decide

/-- `StackLifo`: both bounds. -/
theorem test_witness_stack : (List.replicate 256 (0x11 : Byte)).length = 256 ∧ ([] : List Byte).length ≤ 256 := by decide +kernel

/-- `RegisterFrame`: an instruction for each clause. -/
theorem test_witness_registers : kindIn (.sta (.zp 0)) accumulatorWriters = false ∧ (Instr.sta (.zp 0)).operand ≠ .acc ∧ kindIn .tay xWriters = false ∧
    kindIn .tax yWriters = false ∧ kindIn .tsx stackPointerWriters = false := by decide

/-- `FlagFrame`: an instruction for each clause. -/
theorem test_witness_flags : kindIn (.inc (.zp 0)) carryWriters = false ∧ kindIn .txs zeroSignWriters = false ∧ kindIn .sed interruptWriters = false ∧
    kindIn .sei decimalWriters = false ∧ kindIn .sei breakWriters = false ∧ kindIn (.cmp (.zp 0)) overflowWriters = false := by decide

/-- The three memory frames, the accumulator form among them. -/
theorem test_witness_frames : State.reset.closedMapper ∧ (WellFormed (.asl .acc) = true ∧ kindIn (.asl .acc) pushers = false ∧ (Instr.asl .acc).operand = .acc) ∧
    (WellFormed (.lda (.imm 0)) = true ∧ kindIn (.lda (.imm 0)) operandStores = false) ∧
    (WellFormed (.asl (.zp 0)) = true ∧ kindIn (.asl (.zp 0)) operandStores = true ∧ (Instr.asl (.zp 0)).operand ≠ .acc) ∧
    (WellFormed .brk = true ∧ kindIn .brk pushers = true ∧ pushedBytes .brk = 3) := by decide +kernel

/-- The frames say something: an address that the store does not touch, and one that it does. -/
theorem test_witness_touches : State.reset.touches 0x0810 0x0010 = true ∧ State.reset.touches 0x0810 0x0011 = false ∧
    State.reset.touches 0x2006 0x2006 = false ∧ State.reset.touches 0xFFFF 0xFFFF = true := by decide +kernel

/-- `RequestCoalescing`: each clause. -/
theorem test_witness_requests : ({ pending := true, kind := .reset } : Irq).pending = true ∧
    ¬(({ pending := false, kind := .reset } : Irq).pending = true ∧ IrqKind.normal = .normal) ∧
    ¬(({ pending := true, kind := .normal } : Irq).pending = true ∧ IrqKind.nonMaskable = .normal) := by decide

/-- `NormalDispatch`, `OtherDispatches`, `TrapThenReturn`: each clause. -/
theorem test_witness_dispatch :
    ((interrupted .normal false 0x20).irq.kind = .normal ∧ (interrupted .normal false 0x20).cpu.flags.i = false ∧
      (interrupted .normal false 0x20).closedMapper) ∧
    ((interrupted .normal false 0x24).irq.kind = .normal ∧ (interrupted .normal false 0x24).cpu.flags.i = true) ∧
    ((interrupted .nonMaskable true 0x20).irq.kind = .nonMaskable ∧ (interrupted .nonMaskable true 0x20).ppu.f_nmiOnVblank = true) ∧
    ((interrupted .nonMaskable false 0x20).irq.kind = .nonMaskable ∧ (interrupted .nonMaskable false 0x20).ppu.f_nmiOnVblank = false) ∧
    (interrupted .reset false 0x20).irq.kind = .reset := by decide +kernel

/-- LDA #0x42 at the top of memory. -/
def loadAtTop : State := start 0xFFFE 0 0 0 0xFF 0x20 [(0xFFFE, 0xA9), (0xFFFF, 0x42)]

/-- `StepRunsDecoded`. -/
theorem test_witness_step : loadAtTop.cpuRuns ∧ loadAtTop.irq.pending = false ∧ loadAtTop.closedMapper ∧
    (∀ k < 2, plainAddr (loadAtTop.cpu.pc + BitVec.ofNat 16 k)) ∧
    decode ((List.range 2).map fun k => loadAtTop.peek (loadAtTop.cpu.pc + BitVec.ofNat 16 k).toNat) = .ok (.lda (.imm 0x42), []) := by
  decide +kernel

/-- `StepDispatchesFirst`. -/
theorem test_witness_pending : (interrupted .normal true 0x20).cpuRuns ∧ (interrupted .normal true 0x20).irq.pending = true ∧
    (interrupted .normal true 0x20).closedMapper := by decide +kernel

/-- `IdleSteps`: halt cycles left, fewer than, as many as and more than the chunk; and a halted CPU. -/
theorem test_witness_idle : ∀ n ∈ [1, 8, 9],
    let s := { start 0x8000 0 0 0 0xFF 0x20 [] with haltCycles := n }
    let h := { s with halted := true }
    s.cfg.ok = true ∧ s.inFrame = true ∧ s.halted = false ∧ s.haltCycles ≠ 0 ∧ h.halted = true := by decide +kernel

/-- `ReadAfterWrite`: both ends of the onboard RAM, and plain addresses on each side of the program window's edge. -/
theorem test_witness_readAfterWrite : ((0x07FF : Word).toNat % 0x800 = (0x1FFF : Word).toNat % 0x800 ∧ (0x1FFF : Word).toNat < 0x2000) ∧
    plainAddr 0x1FFF ∧ plainAddr 0x4018 ∧ plainAddr 0x7FFF ∧ plainAddr 0x8000 ∧ plainAddr 0xFFFF ∧ ¬plainAddr 0x2000 ∧ ¬plainAddr 0x4017 ∧
    State.reset.closedMapper ∧ State.reset.cart.mapperType = 0 := by decide +kernel

/-- `StatusPortRead` and `VramPortRead`: the first and the last mirror; an address below the palette and one in it. -/
theorem test_witness_ports : ((0x2002 : Word).toNat % 8 = 2 ∧ (0x3FFA : Word).toNat % 8 = 2) ∧ ((0x2007 : Word).toNat % 8 = 7 ∧ (0x3FFF : Word).toNat % 8 = 7) ∧
    State.reset.ppu.vramAddress ≤ 0x3EFF ∧ ¬{ State.reset.ppu with cnt := Loopy.unpack 0x3F00 }.vramAddress ≤ 0x3EFF := by decide +kernel

/-- `MapperBanksAndCounter`: counting down, running out, disabled, and a type without a counter. -/
theorem test_witness_counter :
    let b := { State.reset.toBus with cart := { Cart.absent with mapperType := 4 }, mapper := { State.reset.mapper with irqEnable := true, irqCounter := 1 } }
    (b.cart.mapperType = 4 ∧ b.mapper.irqEnable = true ∧ 1 ≤ b.mapper.irqCounter) ∧
    { b.mapper with irqCounter := 0 }.irqCounter ≤ 0 ∧ State.reset.mapper.irqEnable = false ∧ State.reset.cart.mapperType ∈ [0, 2, 3, 7] := by decide +kernel

/-- `FrameEnd`: the last dot of the countdown, and the counter values beside it, which complete nothing. -/
theorem test_witness_frameEnd :
    (∀ n ∈ [0, 2], { State.reset.toBus with ppu := { State.reset.ppu with requestEndFrame := true, nmiCounter := n } }.dot.2 = false) ∧
    { State.reset.toBus with ppu := { State.reset.ppu with requestEndFrame := true, nmiCounter := 1 } }.dot.2 = true := by decide +kernel

/-- `LoadRom`: a file that is refused, one shorter than a header, and one that is accepted, of a type of the spec and with a battery. -/
theorem test_witness_load :
    parseRom Config.default [] = .error .invalidRom ∧
    (∃ c, parseRom Config.default [0x4E, 0x45, 0x53, 0x1A, 1, 0, 0x42, 0, 0, 0, 0, 0, 0, 0, 0, 0] = .ok c ∧ c.mapperType = 4 ∧ c.battery = true) ∧
    parseRom Config.default [0x4E, 0x45, 0x53, 0x1A, 1, 0, 0x10, 0, 0, 0, 0, 0, 0, 0, 0, 0] = .error (.unsupportedMapper 1) ∧
    parseRom Config.default [0x4E, 0x45, 0x53, 0x1A, 0, 0, 0, 0, 0, 0, 0, 0, 0, 0, 0, 0] = .error .noProgramBanks :=
  ⟨rfl, ⟨_, rfl, rfl, rfl⟩, rfl, rfl⟩

/-- `StepKeepsInvariant`: a state other than the reset state that satisfies the invariant and has a next state. -/
theorem test_witness_invariant :
    let s := { State.reset with hostCalls := [.buttonDown 1 0, .restoreSnapshot State.reset.snapshot] }
    s.Inv ∧ ∃ t, step s = .next t :=
  ⟨⟨Bus.inv_resetWith _, by
    intro c hc
    simp only [List.mem_cons, List.not_mem_nil, or_false] at hc
    rcases hc with rfl | rfl
    · trivial
    · exact Bus.inv_resetWith Config.default⟩, _, rfl⟩

/-- `StepTotal`: a configuration inside the bounds, and one outside. -/
theorem test_witness_config : Config.default.ok = true ∧ { Config.default with sampleRate := { num := 0, den := 1 } }.ok = false := by decide +kernel

end Sys2Proof.Tests
end

section
/-!
PROOFS. The statements of 20_memory.md: the stack page as a LIFO store of 256 bytes (R86, R87, R91), and the strobe port (R101).
-/

namespace Sys2Proof.Machine

/-! The strobe port. -/

/-- A write of 0x4016 reaches the controllers and nothing else (R92). -/
theorem Bus.write_strobe (b : Bus) (v : Byte) : b.write 0x4016 v = { b with pads := b.pads.writeStrobe v } := rfl

/-! Runs of pushes. -/

@[simp] theorem State.pushes_nil (s : State) : s.pushes [] = s := rfl

@[simp] theorem State.pushes_cons (s : State) (v : Byte) (vs : List Byte) : s.pushes (v :: vs) = (s.push v).pushes vs := rfl

theorem State.pushes_append (s : State) (us vs : List Byte) : s.pushes (us ++ vs) = (s.pushes us).pushes vs :=
  List.foldl_append

/-- A run of pushes lowers `SP` by its length, mod 256, and changes no other register (R86, R91). -/
theorem State.pushes_cpu (s : State) (vs : List Byte) :
    (s.pushes vs).cpu = { s.cpu with sp := s.cpu.sp - BitVec.ofNat 8 vs.length } := by
  induction vs generalizing s with
  | nil => simp
  | cons v vs ih =>
    have hsp : s.cpu.sp - 1 - BitVec.ofNat 8 vs.length = s.cpu.sp - BitVec.ofNat 8 (vs.length + 1) := by bv_omega
    rw [pushes_cons, ih, s.push_eq, List.length_cons, ← hsp]

/-! Runs of pulls. -/

/-- A run of pulls reads the stack page upwards from the byte above `SP`, raises `SP` by its length, mod 256, and changes nothing else (R87). -/
theorem State.pulls_eq (n : Nat) (s : State) :
    State.pulls n s = ((List.range n).map fun k => s.stackByte (s.cpu.sp + BitVec.ofNat 8 (k + 1)),
      { s with cpu := { s.cpu with sp := s.cpu.sp + BitVec.ofNat 8 n } }) := by
  induction n generalizing s with
  | zero => simp [State.pulls]
  | succ n ih =>
    have hsp (k : Nat) : s.cpu.sp + 1 + BitVec.ofNat 8 k = s.cpu.sp + BitVec.ofNat 8 (k + 1) := by bv_omega
    simp only [State.pulls, s.pull_eq, ih, hsp, List.range_succ_eq_map, List.map_cons, List.map_map]
    rfl

/-- The stack page has 256 different addresses: a byte stored at one stack pointer value is read at that value only. -/
theorem Bus.stackByte_putStack (b : Bus) (sp v x : Byte) :
    (b.putStack sp v).stackByte x = if x = sp then v else b.stackByte x := by
  simp only [Bus.memAt_setMem, Nat.add_left_cancel_iff, BitVec.toNat_inj]

/-- A pull right after a push answers the byte pushed and brings the registers back; the byte stays in the stack page. -/
theorem State.pull_push (s : State) (v : Byte) :
    (s.push v).pull = (v, { s with toBus := s.toBus.putStack s.cpu.sp v }) := by
  have hsp : s.cpu.sp - 1 + 1 = s.cpu.sp := BitVec.sub_add_cancel ..
  simp only [State.pull_eq, State.push_eq, hsp, Bus.stackByte_putStack, if_true]

/-- Fewer than 256 pulls do not reach the byte at the stack pointer itself. -/
theorem State.pulls_putStack (s : State) (v : Byte) {n : Nat} (hn : n < 256) :
    (State.pulls n { s with toBus := s.toBus.putStack s.cpu.sp v }).1 = (State.pulls n s).1 := by
  rw [State.pulls_eq, State.pulls_eq]
  refine List.map_congr_left fun k hk => ?_
  have hk : k < n := List.mem_range.1 hk
  have hne : s.cpu.sp + BitVec.ofNat 8 (k + 1) ≠ s.cpu.sp := by bv_omega
  exact (s.toBus.stackByte_putStack ..).trans (if_neg hne)

/-- Up to 256 bytes come back in LIFO order: by induction on the last byte pushed. The first pull answers it, and the fewer than 256 pulls that remain do not
reach its place. -/
theorem State.pulls_pushes_fst (s : State) (vs : List Byte) (h : vs.length ≤ 256) :
    (State.pulls vs.length (s.pushes vs)).1 = vs.reverse := by
  induction vs using List.reverseRecOn with
  | nil => rfl
  | append_singleton vs v ih =>
    rw [List.length_append, List.length_singleton] at h ⊢
    rw [State.pushes_append, pushes_cons, pushes_nil, State.pulls, State.pull_push, State.pulls_putStack _ v (by omega),
      ih (by omega), List.reverse_concat]

/-- As many pulls as pushes bring the registers back. -/
theorem State.pulls_pushes_cpu (s : State) (vs : List Byte) : (State.pulls vs.length (s.pushes vs)).2.cpu = s.cpu := by
  rw [State.pulls_eq, s.pushes_cpu, BitVec.sub_add_cancel]

end Sys2Proof.Machine

namespace Sys2Proof

open Machine

/-- Settles O30: `SP` is arithmetic mod 256, and the last 256 bytes or fewer are a run of pushes of their own, begun after the earlier ones. -/
theorem stackLifo : Obligations.StackLifo := by
  intro s earlier vs
  refine ⟨s.pushes_cpu vs, fun hlen => ?wraps, fun hlen => ?lifo⟩
  case wraps => rw [s.pushes_cpu, hlen]; exact BitVec.sub_zero _
  case lifo =>
    rw [State.pushes_append]
    exact ⟨State.pulls_pushes_fst _ vs hlen, State.pulls_pushes_cpu _ vs⟩

/-- Settles O51: the write is `Pads.writeStrobe`, whose two cases are the transition and its absence. -/
theorem strobePort : Obligations.StrobePort := by
  intro b v
  exact b.write_strobe v

end Sys2Proof
end

section
/-!
PROOFS. The statement of 45_ppu.md about a port: the read of the status port (R92, R330).
-/

namespace Sys2Proof.Machine

/-- A read between 0x2000 and 0x3FFF is a read of the PPU port that the low three bits of the address name (R92). -/
theorem Bus.read_ppuPort (b : Bus) {a : Word} (hlo : 0x2000 ≤ a.toNat) (hhi : a.toNat < 0x4000) :
    b.read a = b.readPort (a.toNat % 8) := by
  unfold Bus.read
  simp only [Nat.not_lt.2 hlo, hhi, if_false, if_true]

/-- Port 2 answers the status from before the read; the vblank bit and the write toggle change after it (R330). -/
theorem Bus.readPort_status (b : Bus) :
    b.readPort 2 = (b.ppu.ppuStatus,
      { b with ppu := { b.ppu with firstWrite := true, ppuStatus := b.ppu.ppuStatus &&& 0x7F } }) := rfl

end Sys2Proof.Machine

namespace Sys2Proof

open Machine

/-- Settles O46: every mirror of the status port reaches port 2. -/
theorem statusPortRead : Obligations.StatusPortRead := by
  intro b a hlo hhi hport
  rw [b.read_ppuPort hlo hhi, hport]
  exact b.readPort_status

end Sys2Proof
end

section
/-!
PROOFS. The statement of 60_exceptions.md about the request latch (R505).
-/

namespace Sys2Proof.Machine

/-- The guard of a request as a proposition: a Normal request while anything is pending keeps the latch (R505). -/
theorem Irq.request_eq_ite (q : Irq) (k : IrqKind) :
    q.request k = if q.pending = true ∧ k = .normal then q else { pending := true, kind := k } := by
  simp only [Irq.request, Bool.and_eq_true, beq_iff_eq]

end Sys2Proof.Machine

namespace Sys2Proof

open Machine

/-- Settles O38: its two clauses are the two cases of `Irq.request_eq_ite`. -/
theorem requestCoalescing : Obligations.RequestCoalescing := by
  intro q k
  rw [q.request_eq_ite k]
  exact ⟨fun hdropped => if_pos hdropped, fun htaken => if_neg htaken⟩

end Sys2Proof
end

section
/-!
PROOFS. The step as a whole (48_scheduler_session.md, 10_state.md): it is total within the bounds of the configuration (R477), it never writes the
configuration, and it keeps the invariant of `State.Inv`.
-/

namespace Sys2Proof.Machine

/-! The calls of the host. -/

/-- What every call of the host keeps: the configuration, the rest of the queue, and the invariant of the bus. -/
def State.HostKeeps (s t : State) : Prop := t.cfg = s.cfg ∧ t.hostCalls = s.hostCalls ∧ (s.toBus.Inv → t.toBus.Inv)

/-- `Frame()` starts a frame or reports `NotLoaded`. -/
theorem State.hostKeeps_startFrame (s : State) : s.HostKeeps s.startFrame := by
  unfold State.startFrame
  split
  · exact ⟨rfl, rfl, (s.toBus.keeps_ppu (Ppu.inv_startFrame s.cfg)).2.2⟩
  · exact ⟨rfl, rfl, id⟩

/-- `LoadRom()` reports an error or replaces the machine by one that satisfies the invariant. -/
theorem State.hostKeeps_loadRom (s : State) (bytes : List Byte) (image : Option (List Byte)) :
    s.HostKeeps (s.loadRom bytes image) := by
  unfold State.loadRom
  split
  · exact ⟨rfl, rfl, id⟩
  · exact ⟨s.install_cfg .., rfl, fun _ => s.inv_install ..⟩

theorem Pads.inv_putButton {p : Pads} (h : p.Inv) (c b : Nat) (v : Bool) : (p.putButton c b v).Inv := by
  unfold Pads.putButton
  split
  · exact h
  · split
    · exact h
    · exact h

/-- A call of the host that brings no broken snapshot keeps what `State.HostKeeps` says. -/
theorem State.hostKeeps_host (s : State) {call : HostCall} (hcall : call.Inv s.cfg) : s.HostKeeps (s.host call) := by
  cases call with
  | frame => exact s.hostKeeps_startFrame
  | loadRom bytes image => exact s.hostKeeps_loadRom bytes image
  | buttonDown c b => exact ⟨rfl, rfl, (s.toBus.keeps_pads fun hp => Pads.inv_putButton hp c b true).2.2⟩
  | buttonUp c b => exact ⟨rfl, rfl, (s.toBus.keeps_pads fun hp => Pads.inv_putButton hp c b false).2.2⟩
  | zapperMove | zapperFireDown | zapperFireUp | createSnapshot => exact ⟨rfl, rfl, id⟩
  | restoreSnapshot p => exact ⟨rfl, rfl, fun _ => State.inv_restore hcall⟩

/-- No call of the host writes the configuration. -/
theorem State.host_cfg (s : State) (call : HostCall) : (s.host call).cfg = s.cfg := by
  cases call with
  | frame => exact s.hostKeeps_startFrame.1
  | loadRom bytes image => exact (s.hostKeeps_loadRom bytes image).1
  | _ => rfl

/-! The step. -/

/-- The three things a step can be: a refusal, a scheduler step, or the next call of the host, which is `Frame()` when its queue is empty (log entry 7). -/
theorem step_eq (s : State) :
    step s = if s.cfg.ok = true then
        if s.inFrame = true then s.schedulerStep
        else .next ({ s with hostCalls := s.hostCalls.tail }.host (s.hostCalls.head?.getD .frame))
      else .refused .badConfig := by
  obtain ⟨b, cpu, halted, loaded, stepCycles, inFrame, hostCalls⟩ := s
  cases hostCalls <;> rfl

/-- Within the bounds of the configuration a step answers a next state, with the configuration as it was and the invariant kept. -/
theorem step_next {s : State} (hok : s.cfg.ok = true) : ∃ t, step s = .next t ∧ t.cfg = s.cfg ∧ (s.Inv → t.Inv) := by
  rw [step_eq, if_pos hok]
  split
  · obtain ⟨t, ht, ⟨hcfg, -, hinv⟩, -, hcalls⟩ := s.schedulerStep_next
    exact ⟨t, ht, hcfg, fun h => ⟨hinv h.1, by rw [hcalls, hcfg]; exact h.2⟩⟩
  · refine ⟨_, rfl, State.host_cfg _ _, fun ⟨hbus, hqueue⟩ => ?_⟩
    have hcall : (s.hostCalls.head?.getD .frame).Inv s.cfg := by
      cases hq : s.hostCalls with
      | nil => trivial
      | cons call rest => exact hqueue call (by simp [hq])
    obtain ⟨hcfg, hcalls, hinv⟩ := State.hostKeeps_host { s with hostCalls := s.hostCalls.tail } hcall
    refine ⟨hinv hbus, ?_⟩
    rw [hcalls, hcfg]
    exact fun c hc => hqueue c (List.mem_of_mem_tail hc)

end Sys2Proof.Machine

namespace Sys2Proof

open Machine

/-- Settles O59: a step that answers at all has a configuration within its bounds, and then keeps the invariant. -/
theorem stepKeepsInvariant : Obligations.StepKeepsInvariant := by
  intro s t hinv hstep
  by_cases hok : s.cfg.ok = true
  · obtain ⟨u, hu, -, hkeeps⟩ := step_next hok
    cases hstep.symm.trans hu
    exact hkeeps hinv
  · rw [step_eq, if_neg hok] at hstep
    cases hstep

/-- Settles O60. -/
theorem stepTotal : Obligations.StepTotal := by
  intro s
  refine ⟨fun hok => ?_, fun hbad => ?_⟩
  · obtain ⟨t, ht, hcfg, -⟩ := step_next hok
    exact ⟨t, ht, hcfg⟩
  · rw [step_eq, if_neg (by simp [hbad])]

/-- Settles O58: the stores are empty and every counter is 0. -/
theorem resetInvariant : Obligations.ResetInvariant :=
  ⟨Bus.inv_resetWith Config.default, by simp [State.reset, State.resetWith]⟩

/-- Settles O56: a snapshot and its restore name the same fields. -/
theorem snapshotRoundTrip : Obligations.SnapshotRoundTrip := fun _ _ => ⟨rfl, rfl⟩

end Sys2Proof
end

section
/-!
PROOFS. The statements of 30_encoding.md about the opcode table, the decoder and the encoder (R120, R124, R140, R143, R144, R146).
-/

namespace Sys2Proof

/-! Finite domains, for facts about the table that the kernel evaluates entry by entry. -/

/-- The 70 kinds. -/
def Kind.all : List Kind :=
  [.adc, .and, .asl, .bcc, .bcs, .beq, .bit, .bmi, .bne, .bpl, .brk, .bvc, .bvs, .clc, .cld, .cli, .clv, .cmp,
   .cpx, .cpy, .dec, .dex, .dey, .eor, .inc, .inx, .iny, .jmp, .jsr, .lda, .ldx, .ldy, .lsr, .nop, .ora, .pha,
   .php, .pla, .plp, .rol, .ror, .rti, .rts, .sbc, .sec, .sed, .sei, .sta, .stx, .sty, .tax, .tay, .tsx, .txa,
   .txs, .tya, .alr, .anc, .arr, .axs, .lax, .sax, .dcp, .isc, .rla, .rra, .slo, .sre, .skb, .ign]

theorem Kind.mem_all (k : Kind) : k ∈ Kind.all := by cases k <;> decide

/-- The 13 modes. -/
def Mode.all : List Mode := [.zp, .rel, .imp, .abs, .acc, .imm, .zpx, .zpy, .absx, .absy, .indx, .indy, .ind]

theorem Mode.mem_all (m : Mode) : m ∈ Mode.all := by cases m <;> decide

/-! The table against the rows of R146. -/

theorem opdata_none_iff : ∀ op : Byte, opdata op = none ↔ op ∈ unfilledOpcodes := by decide +kernel

theorem opdata_row : ∀ op : Byte, ∀ d ∈ opdata op, (op, d.mode, d.length, d.cycles) ∈ Machine.tableRows d.kind := by
  decide +kernel

theorem tableRows_opdata : ∀ k ∈ Kind.all, ∀ r ∈ Machine.tableRows k, opdata r.1 = some ⟨k, r.2.1, r.2.2.1, r.2.2.2⟩ := by
  decide +kernel

theorem tableRows_length_cycles : ∀ k ∈ Kind.all, ∀ r ∈ Machine.tableRows k,
    r.2.2.1 = r.2.1.length ∧ baseCycles k r.2.1 = r.2.2.2 ∧ 2 ≤ r.2.2.2 ∧ r.2.2.2 ≤ 8 := by
  decide +kernel

theorem pays_iff : ∀ k ∈ Kind.all, ∀ m ∈ Mode.all, Machine.pays k m = true ↔
    k ∈ [Kind.adc, .cmp, .eor, .lda, .ldx, .ldy, .lax] ∨
      (k ∈ [Kind.and, .ora, .sbc, .dcp, .isc, .rla, .rra, .slo, .sre, .ign] ∧ m ≠ .indy) := by
  decide +kernel

/-! Words and operands. -/

theorem wordOf_toNat (lo hi : Byte) : (wordOf lo hi).toNat = lo.toNat + 256 * hi.toNat := by
  have hlo := lo.isLt
  rw [wordOf, BitVec.toNat_append, Nat.shiftLeft_eq, Nat.mul_comm, ← Nat.two_pow_add_eq_or_of_lt hlo]
  omega

theorem loByte_toNat (w : Word) : (loByte w).toNat = w.toNat % 256 := by
  simp [loByte, BitVec.extractLsb'_toNat]

theorem hiByte_toNat (w : Word) : (hiByte w).toNat = w.toNat / 256 := by
  have hw := w.isLt
  rw [hiByte, BitVec.extractLsb'_toNat, Nat.shiftRight_eq_div_pow]
  omega

@[simp] theorem wordOf_loByte_hiByte (w : Word) : wordOf (loByte w) (hiByte w) = w := by
  apply BitVec.eq_of_toNat_eq
  rw [wordOf_toNat, loByte_toNat, hiByte_toNat]
  omega

@[simp] theorem loByte_wordOf (lo hi : Byte) : loByte (wordOf lo hi) = lo := by
  apply BitVec.eq_of_toNat_eq
  rw [loByte_toNat, wordOf_toNat]
  omega

@[simp] theorem hiByte_wordOf (lo hi : Byte) : hiByte (wordOf lo hi) = hi := by
  apply BitVec.eq_of_toNat_eq
  rw [hiByte_toNat, wordOf_toNat]
  omega

@[simp] theorem Operand.mode_rel (op1 : Byte) : (Operand.rel op1).mode = .rel := rfl
@[simp] theorem Operand.mode_imm (op1 : Byte) : (Operand.imm op1).mode = .imm := rfl
@[simp] theorem Operand.mode_abs (op16 : Word) : (Operand.abs op16).mode = .abs := rfl

@[simp] theorem Mode.mode_operand (m : Mode) (op1 op2 : Byte) : (m.operand op1 op2).mode = m := by cases m <;> rfl

/-- The operand bytes of a mode's operand are the first bytes after the opcode, as many as the mode has (R124, R125). -/
theorem Mode.bytes_operand (m : Mode) (op1 op2 : Byte) : (m.operand op1 op2).bytes = [op1, op2].take (m.length - 1) := by
  cases m <;> simp [Mode.operand, Operand.bytes, Mode.length]

/-- An operand is the one its mode makes of its own bytes, whatever follows them. -/
theorem Operand.operand_bytes (m : Operand) (rest : List Byte) :
    m.mode.operand ((m.bytes ++ rest).getD 0 0) ((m.bytes ++ rest).getD 1 0) = m := by
  cases m <;> simp [Mode.operand, Operand.mode, Operand.bytes]

/-! Instructions by kind, mode and opcode: the operand bytes play no part in whether the encoding admits a term and which opcode it has. -/

/-- The instruction of a kind, opcode byte and mode with operand bytes 0. -/
def blank (k : Kind) (opcode : Byte) (m : Mode) : Instr := k.instr opcode (m.operand 0 0) 0 0

@[simp] theorem Kind.kind_instr (k : Kind) (opcode : Byte) (m : Operand) (op1 op2 : Byte) :
    (k.instr opcode m op1 op2).kind = some k := by cases k <;> rfl

theorem Kind.wellFormed_instr (k : Kind) (opcode : Byte) (m : Mode) (op1 op2 : Byte) :
    WellFormed (k.instr opcode (m.operand op1 op2) op1 op2) = WellFormed (blank k opcode m) := by
  cases k <;> simp only [blank, Kind.instr, WellFormed, Mode.mode_operand]

theorem Kind.opcode_instr (k : Kind) (opcode : Byte) (m : Mode) (op1 op2 : Byte) :
    (k.instr opcode (m.operand op1 op2) op1 op2).opcode = (blank k opcode m).opcode := by
  cases k <;> simp only [blank, Kind.instr, Instr.opcode, Instr.kind, Instr.operand, Mode.mode_operand] <;> rfl

/-- The operand of a decoded instruction is the mode's, where kind and mode belong together. -/
theorem Kind.operand_instr (k : Kind) (opcode : Byte) (m : Mode) (op1 op2 : Byte) (hm : (blank k opcode m).operand.mode = m) :
    (k.instr opcode (m.operand op1 op2) op1 op2).operand = m.operand op1 op2 := by
  cases k
  case bcc | bcs | beq | bmi | bne | bpl | bvc | bvs => obtain rfl : Mode.rel = m := hm; rfl
  case alr | anc | arr | axs | skb => obtain rfl : Mode.imm = m := hm; rfl
  case jsr => obtain rfl : Mode.abs = m := hm; rfl
  case nop | brk | clc | cld | cli | clv | dex | dey | inx | iny | pha | php | pla | plp | rti | rts | sec | sed | sei
      | tax | tay | tsx | txa | txs | tya =>
    obtain rfl : Mode.imp = m := hm; rfl
  all_goals rfl

/-! From bytes to instructions and back. -/

/-- What the table says of a filled slot: its instruction is well-formed, has the slot's mode and opcode, and the mode's length. -/
theorem opdata_blank : ∀ op : Byte, ∀ d ∈ opdata op,
    WellFormed (blank d.kind op d.mode) = true ∧ (blank d.kind op d.mode).operand.mode = d.mode ∧
      (blank d.kind op d.mode).opcode = some op ∧ d.length = d.mode.length := by
  decide +kernel

/-- The instruction an opcode and two bytes decode to is well-formed, and its encoding is the opcode and the operand bytes of its length. -/
theorem encode_decodeBytes (op op1 op2 : Byte) :
    WellFormed (decodeBytes op op1 op2) = true ∧ encode (decodeBytes op op1 op2) = op :: [op1, op2].take (opcodeLength op - 1) := by
  unfold decodeBytes opcodeLength
  cases hd : opdata op with
  | none => exact ⟨decide_eq_true ((opdata_none_iff op).1 hd), rfl⟩
  | some d =>
    obtain ⟨hwf, hmode, hop, hlen⟩ := opdata_blank op d hd
    refine ⟨(d.kind.wellFormed_instr ..).trans hwf, ?_⟩
    simp only [encode, d.kind.opcode_instr, d.kind.operand_instr _ _ _ _ hmode, hop, Mode.bytes_operand, Option.elim_some, hlen,
      Option.getD_some]

/-- An opcode selects at most 3 bytes (R120, R125). -/
theorem opcodeLength_le (op : Byte) : opcodeLength op ≤ 3 := by
  unfold opcodeLength
  cases hd : opdata op with
  | none => decide
  | some d =>
    obtain ⟨-, -, -, hlen⟩ := opdata_blank op d hd
    rw [Option.elim_some, hlen]
    cases d.mode <;> decide

/-- The operand bytes the decoder looks up and the bytes it leaves are the bytes after the opcode. -/
theorem take_getD_append_drop {n : Nat} (l : List Byte) (hn : n ≤ 2) (hl : n ≤ l.length) :
    [l.getD 0 0, l.getD 1 0].take n ++ l.drop n = l := by
  match n, l with
  | 0, _ | 1, _ :: _ | 2, _ :: _ :: _ => rfl
  | 1, [] | 2, [] | 2, [_] | _ + 3, _ => simp at hn hl

/-! From instructions to bytes and back. -/

/-- The slot of the opcode has this kind and mode. -/
abbrev hasSlot (k : Kind) (m : Mode) (op : Byte) : Prop := ∃ d ∈ opdata op, d.kind = k ∧ d.mode = m

/-- Every kind and mode that the encoding admits has a row. A kind with copies admits none of its forms with opcode 0, which is BRK's. -/
theorem wellFormed_row : ∀ k ∈ Kind.all, ∀ m ∈ Mode.all, WellFormed (blank k 0 m) = true → (blank k 0 m).operand.mode = m →
    ∃ r ∈ Machine.tableRows k, r.2.1 = m := by
  decide +kernel

/-- The opcodes of the copies, which stand in the instruction. -/
theorem copies_hasSlot : (∀ op ∈ nopOpcodes, hasSlot .nop .imp op) ∧ (∀ op ∈ skbOpcodes, hasSlot .skb .imm op) ∧
    (∀ op ∈ ancOpcodes, hasSlot .anc .imm op) ∧ ∀ m ∈ Mode.all, ∀ op ∈ ignOpcodes m, hasSlot .ign m op := by
  decide +kernel

/-- An instruction without an opcode byte of its own has the table's for its kind and mode, and is admitted exactly when its blank form is. -/
theorem Instr.blank_cases {i : Instr} {k : Kind} (hk : i.kind = some k) (hcopies : k ∉ [Kind.nop, .skb, .anc, .ign]) (op : Byte) :
    i.opcode = (blank k op i.operand.mode).opcode ∧ WellFormed i = WellFormed (blank k 0 i.operand.mode) ∧
      (blank k 0 i.operand.mode).operand.mode = i.operand.mode := by
  cases i <;> cases hk
  case nop | skb | anc | ign => simp at hcopies
  all_goals
    simp only [blank, Kind.instr, Instr.operand, Instr.opcode, Instr.kind, WellFormed, Mode.mode_operand, Operand.mode_rel,
      Operand.mode_imm, Operand.mode_abs, and_self]

/-- An instruction with an opcode byte of its own: the slot is one of the copies' (R144, R201, R295 to R297). -/
theorem Instr.copy_hasSlot {i : Instr} (h : WellFormed i = true) {k : Kind} (hk : i.kind = some k)
    (hcopies : k ∈ [Kind.nop, .skb, .anc, .ign]) : ∃ op, i.opcode = some op ∧ hasSlot k i.operand.mode op := by
  obtain ⟨hnop, hskb, hanc, hign⟩ := copies_hasSlot
  cases i <;> cases hk
  case nop op => exact ⟨op, rfl, hnop op (of_decide_eq_true h)⟩
  case skb op v => exact ⟨op, rfl, hskb op (of_decide_eq_true h)⟩
  case anc op v => exact ⟨op, rfl, hanc op (of_decide_eq_true h)⟩
  case ign op m => exact ⟨op, rfl, hign m.mode m.mode.mem_all op (of_decide_eq_true h)⟩
  all_goals simp at hcopies

/-- A well-formed instruction of some kind has an opcode, whose slot has that kind and the operand's mode. -/
theorem Instr.opcode_hasSlot {i : Instr} (h : WellFormed i = true) {k : Kind} (hk : i.kind = some k) :
    ∃ op, i.opcode = some op ∧ hasSlot k i.operand.mode op := by
  by_cases hcopies : k ∈ [Kind.nop, .skb, .anc, .ign]
  · exact Instr.copy_hasSlot h hk hcopies
  · obtain ⟨-, hwf, hmode⟩ := Instr.blank_cases hk hcopies 0
    obtain ⟨⟨op, m, len, cycles⟩, hrow, rfl⟩ := wellFormed_row k k.mem_all _ (Mode.mem_all _) (hwf ▸ h) hmode
    have hd := tableRows_opdata k k.mem_all _ hrow
    obtain ⟨-, -, hop, -⟩ := opdata_blank op _ hd
    exact ⟨op, (Instr.blank_cases hk hcopies op).1.trans hop, _, hd, rfl, rfl⟩

/-- The instruction of a kind, from its own operand and operand bytes. -/
theorem Instr.instr_kind {i : Instr} {k : Kind} (hk : i.kind = some k) {op : Byte} (hop : i.opcode = some op) (rest : List Byte) :
    k.instr op i.operand ((i.operand.bytes ++ rest).getD 0 0) ((i.operand.bytes ++ rest).getD 1 0) = i := by
  cases i <;> cases hk
  case nop | skb | anc | ign => cases hop; rfl
  case jsr => simp [Kind.instr, Instr.operand, Operand.bytes]
  all_goals rfl

/-- A well-formed instruction has an opcode byte, of its own length, which decodes with its operand bytes to it. -/
theorem Instr.decodeBytes_opcode {i : Instr} (h : WellFormed i = true) (rest : List Byte) :
    ∃ op, i.opcode = some op ∧ opcodeLength op = i.operand.bytes.length + 1 ∧
      decodeBytes op ((i.operand.bytes ++ rest).getD 0 0) ((i.operand.bytes ++ rest).getD 1 0) = i := by
  cases hk : i.kind with
  | none =>
    cases i <;> cases hk
    next op =>
      have hd : opdata op = none := (opdata_none_iff op).2 (of_decide_eq_true h)
      exact ⟨op, rfl, by rw [opcodeLength, hd]; rfl, by rw [decodeBytes, hd]⟩
  | some k =>
    obtain ⟨op, hop, d, hd, rfl, hmode⟩ := Instr.opcode_hasSlot h hk
    obtain ⟨-, -, -, hlen⟩ := opdata_blank op d hd
    have hd : opdata op = some d := hd
    refine ⟨op, hop, ?_, ?_⟩
    · rw [opcodeLength, hd, Option.elim_some, hlen, hmode, Laws.operand_bytes_length]
    · rw [decodeBytes, hd]
      dsimp only
      rw [hmode, Operand.operand_bytes, Instr.instr_kind hk hop]

/-- Settles O1: the opcode byte selects the length, so the decoder takes exactly the operand bytes and rebuilds the instruction of them. -/
theorem decodeEncode : Obligations.DecodeEncode := by
  intro i rest h
  obtain ⟨op, hop, hlen, hdec⟩ := Instr.decodeBytes_opcode h rest
  rw [encode, hop, Option.getD_some, List.cons_append, decode, hlen, hdec, if_neg (by simp)]
  simp

/-- Settles O2: an opcode and its operand bytes are the encoding of what they decode to, and the decoder leaves the bytes behind them. -/
theorem encodeDecode : Obligations.EncodeDecode := by
  intro bytes rest i h
  cases bytes with
  | nil => cases h
  | cons op tail =>
    rw [decode] at h
    split at h
    · cases h
    · next hlen =>
      cases h
      have hmax := opcodeLength_le op
      obtain ⟨hwf, henc⟩ := encode_decodeBytes op (tail.getD 0 0) (tail.getD 1 0)
      exact ⟨hwf, by rw [henc, List.cons_append, take_getD_append_drop tail (by omega) (by omega)]⟩

/-- Settles O3. -/
theorem decodeWords : Obligations.DecodeWords := by
  refine ⟨rfl, rfl, rfl, rfl, rfl, rfl, rfl, rfl, rfl, rfl, rfl, rfl, rfl, rfl⟩

end Sys2Proof

namespace Sys2Proof.Proofs

open Machine

/-- Settles O4: the table and the rows of R146 are compared slot by slot and row by row. -/
theorem opcodeTable : Obligations.OpcodeTable := by
  refine ⟨opdata_none_iff, fun op d => ⟨opdata_row op d, fun hrow => ?_⟩, fun k => tableRows_length_cycles k k.mem_all,
    fun k m => pays_iff k k.mem_all m m.mem_all⟩
  exact tableRows_opdata d.kind d.kind.mem_all _ hrow

end Sys2Proof.Proofs
end

section
/-!
PROOFS. The statements of 30_encoding.md section 3 about effective addresses (R126 to R137).
-/

namespace Sys2Proof.Machine

/-! Arithmetic of address bytes. -/

theorem toNat_zeroExtend (v : Byte) : (v.zeroExtend 16).toNat = v.toNat := by
  have hv := v.isLt
  rw [BitVec.zeroExtend, BitVec.toNat_setWidth, Nat.mod_eq_of_lt (by omega)]

theorem toNat_zeroExtend_add (w : Word) (i : Byte) : (w + i.zeroExtend 16).toNat = (w.toNat + i.toNat) % 65536 := by
  rw [BitVec.toNat_add, toNat_zeroExtend]

/-- Two addresses lie on different pages when their high bytes differ. -/
theorem hiByte_bne_iff (v w : Word) : (hiByte v != hiByte w) = true ↔ v.toNat / 256 ≠ w.toNat / 256 := by
  rw [bne_iff_ne, ne_eq, ← BitVec.toNat_inj, hiByte_toNat, hiByte_toNat]

/-- An indexed address: the sum mod 65536, and the page test of R134. -/
theorem indexed_ea (base : Word) (index : Byte) (s : State) :
    (indexed base index s).ea.toNat = (base.toNat + index.toNat) % 65536 := toNat_zeroExtend_add base index

theorem indexed_cross (base : Word) (index : Byte) (s : State) :
    (indexed base index s).cross = true ↔ base.toNat / 256 ≠ (base.toNat + index.toNat) % 65536 / 256 := by
  rw [indexed, hiByte_bne_iff, toNat_zeroExtend_add]

/-- A word read below the first port: its two bytes, and nothing changes (R82, R84). -/
theorem State.read16_low (s : State) {a : Word} (ha : a.toNat + 1 < 0x800) :
    s.read16 a = (wordOf (s.memAt a.toNat) (s.memAt (a.toNat + 1)), s) := by
  have ha1 : (a + 1).toNat = a.toNat + 1 := by bv_omega
  have hlo := s.toBus.read_ram (a := a) (by omega)
  have hhi := s.toBus.read_ram (a := a + 1) (by omega)
  rw [Nat.mod_eq_of_lt (by omega)] at hlo hhi
  simp only [State.read16, State.read, hlo, hhi, ha1]

end Sys2Proof.Machine

namespace Sys2Proof

open Machine

/-- Settles O5: the zero-page sums are sums of bytes, and nothing is read. -/
theorem directModes : Obligations.DirectModes := by
  intro s op1 op16
  have indexedZeroPage (i : Byte) : ((op1 + i).zeroExtend 16).toNat = (op1.toNat + i.toNat) % 256 :=
    (toNat_zeroExtend _).trans (BitVec.toNat_add ..)
  refine ⟨⟨toNat_zeroExtend op1, rfl, rfl⟩, ⟨?relative, rfl⟩, ⟨rfl, rfl, rfl⟩, ⟨indexedZeroPage _, rfl, rfl⟩, indexedZeroPage _, rfl, rfl⟩
  case relative =>
    have hsign : (op1.signExtend 16).toInt = op1.toInt := BitVec.toInt_signExtend_of_le (by decide)
    have hcond := BitVec.toInt_eq_toNat_cond (op1.signExtend 16)
    show ((s.cpu.pc + op1.signExtend 16).toNat : Int) = _
    rw [← hsign, hcond, BitVec.toNat_add]
    split
    · omega
    · omega

/-- Settles O6: the page test of the sum, and LDA's charge for it. -/
theorem indexedModes : Obligations.IndexedModes := by
  intro s base index m hm
  obtain ⟨hresolve, hexec⟩ : s.resolve m = indexed base index s ∧
      ∃ t, exec (.lda m) s = .next t ∧ t.stepCycles = 4 + if (indexed base index s).cross then 1 else 0 := by
    have hbase : baseCycles .lda .absx = 4 ∧ baseCycles .lda .absy = 4 := by decide +kernel
    rcases hm with ⟨rfl, rfl⟩ | ⟨rfl, rfl⟩
    · exact ⟨rfl, _, rfl, congrArg (· + _) hbase.1⟩
    · exact ⟨rfl, _, rfl, congrArg (· + _) hbase.2⟩
  obtain ⟨t, ht, hcycles⟩ := hexec
  have hcross := indexed_cross base index s
  rw [hresolve]
  refine ⟨indexed_ea .., hcross, rfl, t, ht, ?_⟩
  rw [hcycles]
  simp only [hcross]
  split
  · rfl
  · rfl

/-- Settles O7: both pointers lie in onboard RAM, also the one at 0x00FF. -/
theorem indirectModes : Obligations.IndirectModes := by
  intro s op1
  have hptr (v : Byte) : s.read16 (v.zeroExtend 16) = (wordOf (s.memAt v.toNat) (s.memAt (v.toNat + 1)), s) := by
    have hv := v.isLt
    rw [s.read16_low (by rw [toNat_zeroExtend]; omega), toNat_zeroExtend]
  refine ⟨?indexedPointer, ?pointerIndexed⟩
  case indexedPointer =>
    simp only [State.resolve, hptr, BitVec.toNat_add, decide_eq_true_eq, and_true]
  case pointerIndexed =>
    have hlo := (s.memAt op1.toNat).isLt
    have hhi := (s.memAt (op1.toNat + 1)).isLt
    have hy := s.cpu.y.isLt
    simp only [State.resolve, hptr, indexed_ea, indexed_cross, wordOf_toNat, true_and]
    refine ⟨?_, rfl⟩
    omega

end Sys2Proof
end

section
/-!
PROOFS. The next state of an instruction from its shape (30_encoding.md rules R122, R141; 42_shift_rmw.md rule R220): one lemma for each of the shapes of
Machine/Operands.lean, as `State.after` of the registers, the bus and the cycle count; and the statements of 40_load_store_transfer.md.
-/

namespace Sys2Proof.Machine

/-! Flags. -/

/-- `SetNZ` in the words of R31: bit 7 of the result, and whether it is 0. -/
theorem Flags.setNZ_eq (f : Flags) (v : Byte) : f.setNZ v = f.withNZ v := by
  have hz : (v == 0) = decide (v.toNat = 0) := by
    rw [Bool.eq_iff_iff, beq_iff_eq, decide_eq_true_eq, ← BitVec.toNat_inj]
    rfl
  rw [Flags.setNZ, hz]
  rfl

theorem State.setNZ_eq (t : State) (v : Byte) : t.setNZ v = { t with cpu := { t.cpu with flags := t.cpu.flags.withNZ v } } := by
  rw [State.setNZ, Flags.setNZ_eq]
  rfl

/-- A kind that never pays takes its base count, whatever the page crossing (R140, R141). -/
theorem cyclesOf_free {k : Kind} {m : Mode} (hk : pays k m = false) (cross : Bool) : cyclesOf k m cross = baseCycles k m := by
  rw [cyclesOf, hk]
  rfl

/-! The registers after a value was moved. -/

/-- `A` and the flags `N`, `Z` take a byte. -/
abbrev Cpu.loadA (c : Cpu) (v : Byte) : Cpu := { c with a := v, flags := c.flags.withNZ v }

/-- `X` and the flags `N`, `Z` take a byte. -/
abbrev Cpu.loadX (c : Cpu) (v : Byte) : Cpu := { c with x := v, flags := c.flags.withNZ v }

/-- `Y` and the flags `N`, `Z` take a byte. -/
abbrev Cpu.loadY (c : Cpu) (v : Byte) : Cpu := { c with y := v, flags := c.flags.withNZ v }

theorem State.loadA_eq (t : State) (v : Byte) : (t.setA v).setNZ v = { t with cpu := t.cpu.loadA v } := State.setNZ_eq ..

theorem State.loadX_eq (t : State) (v : Byte) : (t.setX v).setNZ v = { t with cpu := t.cpu.loadX v } := State.setNZ_eq ..

theorem State.loadY_eq (t : State) (v : Byte) : (t.setY v).setNZ v = { t with cpu := t.cpu.loadY v } := State.setNZ_eq ..

/-! The shapes. -/

theorem Result.next_congr {t u : State} (h : t = u) : (.next t : Result) = .next u := congrArg _ h

/-- The registers when an instruction of mode `m` acts: `PC` stands behind it (R122). -/
abbrev State.cpuAt (s : State) (m : Mode) : Cpu := { s.cpu with pc := s.nextPC m }

/-- An instruction without operand that acts on registers: nothing is read and the bus stays (R128). -/
theorem State.implied_after (s : State) (k : Kind) {act : State → State} {f : Cpu → Cpu}
    (h : ∀ t, act t = { t with cpu := f t.cpu }) :
    s.implied k act = s.after (f (s.cpuAt .imp)) s.toBus (baseCycles k .imp) := by
  rw [State.implied, h, State.charge, Bool.and_false]
  rfl

/-- An instruction that reads its operand and acts on registers (R160, R190). -/
theorem State.reading_after (s : State) (k : Kind) (m : Operand) {act : Byte → State → State} {f : Byte → Cpu → Cpu}
    (h : ∀ v t, act v t = { t with cpu := f v t.cpu }) :
    s.reading k m act = s.after (f (s.operand m).value (s.cpuAt m.mode)) (s.operand m).state.toBus
      (cyclesOf k m.mode (s.operand m).cross) := by
  have hstate := State.readOperand_state (s.advance m.mode) m
  rw [State.reading, h, hstate]
  rfl

/-- An instruction that stores, of a kind that never pays: one write at the effective address, no register but `PC` (R160). -/
theorem State.storing_after (s : State) {k : Kind} (m : Operand) (v : Byte) (hk : pays k m.mode = false) :
    s.storing k m v = s.after (s.cpuAt m.mode) ((s.target m).state.toBus.write (s.target m).ea v) (baseCycles k m.mode) := by
  have hstate := State.resolve_state (s.advance m.mode) m
  rw [← cyclesOf_free hk (s.target m).cross, State.storing, hstate]
  rfl

/-- A read-modify-write of memory: one read, the operation on the old flags and byte, one write of its result, then the second operation on registers
(R220). -/
theorem State.modifying_after (s : State) (k : Kind) {m : Operand} (hm : m ≠ .acc) (act : Flags → Byte → Modified)
    {after : Byte → State → State} {f : Byte → Cpu → Cpu} (h : ∀ v t, after v t = { t with cpu := f v t.cpu }) :
    let q := (s.target m).state.read (s.target m).ea
    let o := act s.cpu.flags q.1
    s.modifying k m act after = s.after (f o.value { s.cpuAt m.mode with flags := o.flags })
      (q.2.toBus.write (s.target m).ea o.value) (cyclesOf k m.mode (s.target m).cross) := by
  have hshape : s.modifying k m act after =
      (let r := s.target m
       let q := r.state.read r.ea
       let o := act q.2.cpu.flags q.1
       (after o.value ((q.2.setFlags o.flags).write r.ea o.value)).charge k m.mode r.cross) := by
    cases m with
    | acc => exact absurd rfl hm
    | _ => rfl
  have hstate := State.resolve_state (s.advance m.mode) m
  rw [hshape]
  dsimp only
  rw [h, hstate]
  rfl

/-- A read-modify-write of the accumulator: no bus access (R130, R237). -/
theorem State.modifying_acc (s : State) (k : Kind) (act : Flags → Byte → Modified)
    {after : Byte → State → State} {f : Byte → Cpu → Cpu} (h : ∀ v t, after v t = { t with cpu := f v t.cpu }) :
    let o := act s.cpu.flags s.cpu.a
    s.modifying k .acc act after = s.after (f o.value { s.cpuAt .acc with a := o.value, flags := o.flags }) s.toBus
      (baseCycles k .acc) := by
  rw [State.modifying]
  dsimp only
  rw [h, State.charge, Bool.and_false]
  rfl

end Sys2Proof.Machine

namespace Sys2Proof

open Machine

/-! Cycle counts of one-byte instructions that work on registers (R146). -/

theorem baseCycles_imp_two : ∀ k ∈ [Kind.tax, .tay, .tsx, .txa, .txs, .tya, .inx, .iny, .dex, .dey, .clc, .sec, .cli, .sei, .cld,
    .sed, .clv, .nop], baseCycles k .imp = 2 := by
  decide +kernel

/-- An instruction without operand of two cycles. -/
theorem Machine.State.implied_two (s : State) {k : Kind} {act : State → State} {f : Cpu → Cpu} (h : ∀ t, act t = { t with cpu := f t.cpu })
    (hk : baseCycles k .imp = 2) : s.implied k act = s.after (f (s.cpuAt .imp)) s.toBus 2 :=
  hk ▸ s.implied_after k h

/-- Settles O8. -/
theorem loads : Obligations.Loads := by
  intro m s
  refine ⟨?imm, ?acc, ?memory, ?lda, ?ldx, ?ldy, ?lax⟩
  case imm => rintro v rfl; exact ⟨rfl, rfl, rfl⟩
  case acc => rintro rfl; exact ⟨rfl, rfl, rfl⟩
  case memory =>
    intro himm hacc
    cases m with
    | imm v => exact absurd rfl himm
    | acc => exact absurd rfl hacc
    | _ => exact ⟨rfl, rfl, rfl⟩
  case lda => exact Result.next_congr (s.reading_after .lda m (f := fun v c => c.loadA v) fun v t => t.loadA_eq v)
  case ldx => exact Result.next_congr (s.reading_after .ldx m (f := fun v c => c.loadX v) fun v t => t.loadX_eq v)
  case ldy => exact Result.next_congr (s.reading_after .ldy m (f := fun v c => c.loadY v) fun v t => t.loadY_eq v)
  case lax =>
    exact Result.next_congr (s.reading_after .lax m (f := fun v c => { c.loadA v with x := v }) fun v t => State.loadX_eq (t.setA v) v)

/-- Settles O9: no store pays for a page crossing. -/
theorem stores : Obligations.Stores := fun m s =>
  ⟨Result.next_congr (s.storing_after m _ rfl), Result.next_congr (s.storing_after m _ rfl), Result.next_congr (s.storing_after m _ rfl),
    Result.next_congr (s.storing_after m _ rfl)⟩

/-- Settles O10. -/
theorem transfers : Obligations.Transfers := by
  intro s
  refine ⟨?tax, ?tay, ?tsx, ?txa, ?txs, ?tya⟩
  case tax => exact Result.next_congr (s.implied_two (f := fun c => c.loadX c.a) (fun t => t.loadX_eq _) (baseCycles_imp_two .tax (by simp)))
  case tay => exact Result.next_congr (s.implied_two (f := fun c => c.loadY c.a) (fun t => t.loadY_eq _) (baseCycles_imp_two .tay (by simp)))
  case tsx => exact Result.next_congr (s.implied_two (f := fun c => c.loadX c.sp) (fun t => t.loadX_eq _) (baseCycles_imp_two .tsx (by simp)))
  case txa => exact Result.next_congr (s.implied_two (f := fun c => c.loadA c.x) (fun t => t.loadA_eq _) (baseCycles_imp_two .txa (by simp)))
  case txs => exact Result.next_congr (s.implied_two (f := fun c => { c with sp := c.x }) (fun _ => rfl) (baseCycles_imp_two .txs (by simp)))
  case tya => exact Result.next_congr (s.implied_two (f := fun c => c.loadA c.y) (fun t => t.loadA_eq _) (baseCycles_imp_two .tya (by simp)))

end Sys2Proof
end

section
/-!
PROOFS. The statements of 41_alu_arith_logic.md and 42_shift_rmw.md: what the adder, the subtracter, the comparison and the shifts compute in numbers
(R191, R192, R196, R221 to R226), and the next state of the instructions that use them.
-/

namespace Sys2Proof.Machine

/-! The adder and the subtracter. -/

/-- The sign bit of an exclusive or says that the signs differ. -/
theorem msb_xor_iff (x y : Byte) : (x ^^^ y).msb = true ↔ ¬(128 ≤ x.toNat ↔ 128 ≤ y.toNat) := by
  rw [BitVec.msb_xor, BitVec.msb_eq_decide, BitVec.msb_eq_decide, bne_iff_ne, ne_eq, decide_eq_decide]

theorem toInt_byte (x : Byte) : x.toInt = if x.toNat < 128 then (x.toNat : Int) else x.toNat - 256 := by
  rw [BitVec.toInt_eq_toNat_cond]
  split
  · rw [if_pos (by omega)]
  · rw [if_neg (by omega)]
    rfl

/-- The overflow bit of the adder: the operands have one sign and the sum another exactly when the signed sum leaves the range of a byte (R191). -/
theorem adder_v (a m : Byte) (c : Bool) : (adder a m c).v = signedOverflow (a.toInt + m.toInt + c.toNat) := by
  have ha := a.isLt
  have hm := m.isLt
  have hc := c.toNat_le
  rw [Bool.eq_iff_iff, adder, toInt_byte, toInt_byte]
  simp only [Bool.and_eq_true, Bool.not_eq_true', ← Bool.not_eq_true, msb_xor_iff, BitVec.toNat_ofNat, decide_eq_true_eq]
  split <;> split <;> omega

/-- The overflow bit of the subtracter (R192). -/
theorem subtracter_v (a m : Byte) (c : Bool) : (subtracter a m c).v = signedOverflow (a.toInt - m.toInt - (1 - c.toNat)) := by
  have ha := a.isLt
  have hm := m.isLt
  have hc := c.toNat_le
  rw [Bool.eq_iff_iff, subtracter, toInt_byte, toInt_byte]
  simp only [Bool.and_eq_true, msb_xor_iff, BitVec.toNat_ofInt, decide_eq_true_eq]
  split <;> split <;> omega

/-- The registers after ADC of a byte (R191). -/
abbrev Cpu.addToA (c : Cpu) (v : Byte) : Cpu :=
  let t := c.a.toNat + v.toNat + c.flags.carry
  { c with a := u8 t
           flags := { c.flags with c := decide (255 < t), v := signedOverflow (c.a.toInt + v.toInt + c.flags.carry) }.withNZ (u8 t) }

/-- The registers after SBC of a byte (R192). -/
abbrev Cpu.subtractFromA (c : Cpu) (v : Byte) : Cpu :=
  let t : Int := c.a.toNat - v.toNat - (1 - c.flags.carry)
  { c with a := BitVec.ofInt 8 t
           flags := { c.flags with c := decide (0 ≤ t), v := signedOverflow (c.a.toInt - v.toInt - (1 - c.flags.carry)) }.withNZ
             (BitVec.ofInt 8 t) }

theorem State.addToA_eq (t : State) (v : Byte) : t.addToA v = { t with cpu := t.cpu.addToA v } := by
  rw [State.addToA, State.putAlu, Flags.ofAlu, Flags.setNZ_eq, adder_v]
  rfl

theorem State.subtractFromA_eq (t : State) (v : Byte) : t.subtractFromA v = { t with cpu := t.cpu.subtractFromA v } := by
  rw [State.subtractFromA, State.putAlu, Flags.ofAlu, Flags.setNZ_eq, subtracter_v]
  rfl

/-! The comparison. -/

/-- The 8-bit difference of two bytes, from the difference of their numbers. -/
theorem ofInt_toNat_sub (a m : Byte) : BitVec.ofInt 8 (a.toNat - m.toNat) = a - m := by
  have ha := a.isLt
  have hm := m.isLt
  apply BitVec.eq_of_toNat_eq
  rw [BitVec.toNat_ofInt, BitVec.toNat_sub]
  omega

/-- The registers after a comparison of the register value `q` with a byte (R196). -/
abbrev Cpu.compare (c : Cpu) (q v : Byte) : Cpu :=
  { c with flags := { c.flags with c := decide (v.toNat ≤ q.toNat), z := decide (q = v), n := (q - v).getLsbD 7 } }

/-- Not-borrow: the difference is not negative exactly when the subtrahend is at most the minuend. -/
theorem decide_sub_nonneg (q v : Byte) : decide (0 ≤ (q.toNat : Int) - v.toNat) = decide (v.toNat ≤ q.toNat) := by
  rw [decide_eq_decide]; omega

theorem State.compareWith_eq (t : State) (q v : Byte) : t.compareWith q v = { t with cpu := t.cpu.compare q v } := by
  have hz : decide ((q - v).toNat = 0) = decide (q = v) := by
    rw [decide_eq_decide]; bv_omega
  rw [State.compareWith, Flags.compare, Flags.setNZ_eq, ofInt_toNat_sub, decide_sub_nonneg, Flags.withNZ, hz]
  rfl

/-! The shifts, as numbers (R237). -/

theorem shiftAsl_eq (c : Bool) (v : Byte) : shiftAsl c v = { value := u8 (2 * v.toNat), c := decide (128 ≤ v.toNat) } := by
  have hv : v <<< 1 = u8 (2 * v.toNat) := by
    apply BitVec.eq_of_toNat_eq
    rw [BitVec.toNat_shiftLeft, Nat.shiftLeft_eq, BitVec.toNat_ofNat]
    omega
  rw [shiftAsl, hv, BitVec.msb_eq_decide]

theorem shiftLsr_value (c : Bool) (v : Byte) : (shiftLsr c v).value = u8 (v.toNat / 2) := by
  have hlt := v.isLt
  apply BitVec.eq_of_toNat_eq
  rw [shiftLsr, BitVec.toNat_ushiftRight, Nat.shiftRight_eq_div_pow, BitVec.toNat_ofNat]
  omega

theorem shiftLsr_eq (c : Bool) (v : Byte) : shiftLsr c v = { value := u8 (v.toNat / 2), c := decide (v.toNat % 2 = 1) } := by
  rw [← shiftLsr_value c, shiftLsr, BitVec.getLsbD, Nat.testBit_zero]

theorem toNat_ofBool_zeroExtend (c : Bool) : ((BitVec.ofBool c).zeroExtend 8).toNat = c.toNat := by cases c <;> rfl

theorem shiftRol_eq (c : Bool) (v : Byte) :
    shiftRol c v = { value := u8 (2 * v.toNat + c.toNat), c := decide (128 ≤ v.toNat) } := by
  have hc := c.toNat_le
  have hv : v <<< 1 ||| (BitVec.ofBool c).zeroExtend 8 = u8 (2 * v.toNat + c.toNat) := by
    apply BitVec.eq_of_toNat_eq
    have hor := Nat.two_pow_add_eq_or_of_lt (i := 1) (b := c.toNat) (by omega) (v.toNat % 128)
    have hshift : v.toNat * 2 ^ 1 % 2 ^ 8 = 2 ^ 1 * (v.toNat % 128) := by omega
    rw [BitVec.toNat_or, BitVec.toNat_shiftLeft, Nat.shiftLeft_eq, toNat_ofBool_zeroExtend, BitVec.toNat_ofNat, hshift, ← hor]
    omega
  rw [shiftRol, hv, BitVec.msb_eq_decide]

theorem shiftRor_value (c : Bool) (v : Byte) : (shiftRor c v).value = u8 (v.toNat / 2 + 128 * c.toNat) := by
  have hlt := v.isLt
  have hc := c.toNat_le
  have hor := Nat.two_pow_add_eq_or_of_lt (i := 7) (b := v.toNat / 2) (by omega) c.toNat
  have hshift : c.toNat * 2 ^ 7 % 2 ^ 8 = 2 ^ 7 * c.toNat := by omega
  apply BitVec.eq_of_toNat_eq
  rw [shiftRor, BitVec.toNat_or, BitVec.toNat_ushiftRight, Nat.shiftRight_eq_div_pow, BitVec.toNat_shiftLeft, Nat.shiftLeft_eq,
    toNat_ofBool_zeroExtend, BitVec.toNat_ofNat, hshift, Nat.or_comm, Nat.pow_one, ← hor]
  omega

theorem shiftRor_eq (c : Bool) (v : Byte) :
    shiftRor c v = { value := u8 (v.toNat / 2 + 128 * c.toNat), c := decide (v.toNat % 2 = 1) } := by
  rw [← shiftRor_value c, shiftRor, BitVec.getLsbD, Nat.testBit_zero]

/-- The bit shifted out to the right, as the number a carry is. -/
theorem decide_mod_two_toNat (n : Nat) : (decide (n % 2 = 1)).toNat = n % 2 := by
  rcases Nat.mod_two_eq_zero_or_one n with h | h <;> simp [h]

theorem Flags.ofShift_eq (f : Flags) (r : ShiftResult) : f.ofShift r = { f with c := r.c }.withNZ r.value := Flags.setNZ_eq ..

theorem shiftOp_eq (f : Bool → Byte → ShiftResult) (fl : Flags) (v : Byte) :
    shiftOp f fl v = { value := (f fl.c v).value, flags := { fl with c := (f fl.c v).c }.withNZ (f fl.c v).value } := by
  rw [shiftOp, Flags.ofShift_eq]

theorem addOp_eq (d : Byte) (fl : Flags) (v : Byte) : addOp d fl v = { value := v + d, flags := fl.withNZ (v + d) } := by
  rw [addOp, Flags.setNZ_eq]

theorem add_one_eq (v : Byte) : v + 1 = u8 (v.toNat + 1) := by bv_omega

theorem sub_one_eq (v : Byte) : v - 1 = u8 (v.toNat + 255) := by bv_omega

theorem add_neg_one_eq (v : Byte) : v + -1 = u8 (v.toNat + 255) := by bv_omega

end Sys2Proof.Machine

namespace Sys2Proof

open Machine

/-! Arithmetic and logic. -/

/-- Settles O11. -/
theorem adcSignedOverflow : Obligations.AdcSignedOverflow := fun m s =>
  Result.next_congr (s.reading_after .adc m (f := fun v c => c.addToA v) fun v t => t.addToA_eq v)

/-- Settles O12. -/
theorem sbcSignedOverflow : Obligations.SbcSignedOverflow := fun m s =>
  Result.next_congr (s.reading_after .sbc m (f := fun v c => c.subtractFromA v) fun v t => t.subtractFromA_eq v)

/-- Settles O14. -/
theorem logic : Obligations.Logic := fun m s =>
  ⟨Result.next_congr (s.reading_after .and m (f := fun v c => c.loadA (c.a &&& v)) fun _ t => t.loadA_eq _),
    Result.next_congr (s.reading_after .ora m (f := fun v c => c.loadA (c.a ||| v)) fun _ t => t.loadA_eq _),
    Result.next_congr (s.reading_after .eor m (f := fun v c => c.loadA (c.a ^^^ v)) fun _ t => t.loadA_eq _)⟩

/-- Settles O15. -/
theorem comparesAndBit : Obligations.ComparesAndBit := fun m s =>
  ⟨Result.next_congr (s.reading_after .cmp m (f := fun v c => c.compare c.a v) fun v t => t.compareWith_eq _ v),
    Result.next_congr (s.reading_after .cpx m (f := fun v c => c.compare c.x v) fun v t => t.compareWith_eq _ v),
    Result.next_congr (s.reading_after .cpy m (f := fun v c => c.compare c.y v) fun v t => t.compareWith_eq _ v),
    Result.next_congr (s.reading_after .bit m (f := fun v c => { c with flags := { c.flags with
      n := v.getLsbD 7, v := v.getLsbD 6, z := decide (c.a &&& v = 0) } }) fun _ _ => rfl)⟩

theorem toNat_xor_ff (v : Byte) : (v ^^^ 0xFF).toNat = 255 - v.toNat := by
  have hnot : v ^^^ 0xFF = ~~~v := by
    rw [BitVec.not_def, BitVec.xor_comm]
    rfl
  rw [hnot, BitVec.toNat_not]

/-- Settles O13: the difference is the sum with the complement, `255 - M`, and so are carry and overflow. -/
theorem sbcIsAdcOfComplement : Obligations.SbcIsAdcOfComplement := by
  intro v s
  have hcpu (c : Cpu) : c.subtractFromA v = c.addToA (v ^^^ 0xFF) := by
    have hnot := toNat_xor_ff v
    have hint : (v ^^^ 0xFF).toInt = -1 - v.toInt := by
      rw [toInt_byte, toInt_byte, hnot]
      split <;> split <;> omega
    have hc := c.flags.c.toNat_le
    have hsum : BitVec.ofInt 8 (c.a.toNat - v.toNat - (1 - c.flags.carry)) = u8 (c.a.toNat + (255 - v.toNat) + c.flags.carry) := by
      apply BitVec.eq_of_toNat_eq
      rw [BitVec.toNat_ofInt, BitVec.toNat_ofNat]
      omega
    have hcarry : decide (0 ≤ (c.a.toNat : Int) - v.toNat - (1 - c.flags.carry)) =
        decide (255 < c.a.toNat + (255 - v.toNat) + c.flags.carry) := by
      rw [decide_eq_decide]
      omega
    have hover : c.a.toInt - v.toInt - (1 - c.flags.carry) = c.a.toInt + (-1 - v.toInt) + c.flags.carry := by omega
    simp only [Cpu.subtractFromA, Cpu.addToA, hnot, hint, hsum, hcarry, hover]
  have hcycles : cyclesOf .sbc .imm false = cyclesOf .adc .imm false := by decide +kernel
  calc exec (.sbc (.imm v)) s
    _ = .next (s.after ((s.cpuAt .imm).subtractFromA v) s.toBus (cyclesOf .sbc .imm false)) := sbcSignedOverflow (.imm v) s
    _ = .next (s.after ((s.cpuAt .imm).addToA (v ^^^ 0xFF)) s.toBus (cyclesOf .adc .imm false)) := by rw [hcpu, hcycles]
    _ = exec (.adc (.imm (v ^^^ 0xFF))) s := (adcSignedOverflow (.imm (v ^^^ 0xFF)) s).symm

theorem baseCycles_imm_two : ∀ k ∈ [Kind.alr, .anc, .arr, .axs, .skb], baseCycles k .imm = 2 := by decide +kernel

/-- An instruction with an immediate byte and two cycles: its action after the advance of `PC`. -/
theorem reading_imm (s : State) {k : Kind} (v : Byte) (act : Byte → State → State) (hk : baseCycles k .imm = 2) :
    s.reading k (.imm v) act = (act v (s.advance .imm)).setCycles 2 := by
  rw [← hk, State.reading]
  dsimp only [State.readOperand, Operand.mode_imm]
  rw [State.charge, Bool.and_false]
  rfl

/-- Settles O16. -/
theorem immediateCombinations : Obligations.ImmediateCombinations := by
  intro op v s
  refine ⟨Result.next_congr ?alr, Result.next_congr ?anc, Result.next_congr ?arr, Result.next_congr ?axs⟩
  case alr =>
    rw [reading_imm s v _ (baseCycles_imm_two .alr (by simp))]
    dsimp only
    rw [Flags.ofShift_eq, shiftLsr_value]
    rfl
  case anc =>
    rw [reading_imm s v _ (baseCycles_imm_two .anc (by simp))]
    dsimp only
    rw [Flags.setNZ_eq]
    rfl
  case arr =>
    rw [reading_imm s v _ (baseCycles_imm_two .arr (by simp))]
    rw [State.putAlu, Flags.ofAlu, Flags.setNZ_eq, rotateArr, shiftRor_value]
    rfl
  case axs =>
    rw [reading_imm s v _ (baseCycles_imm_two .axs (by simp))]
    dsimp only
    rw [Flags.ofAlu, Flags.setNZ_eq, subtractAxs, ofInt_toNat_sub, decide_sub_nonneg]
    rfl

theorem baseCycles_acc_two : ∀ k ∈ [Kind.asl, .lsr, .rol, .ror], baseCycles k .acc = 2 := by decide +kernel

/-- A shift of the accumulator, from what the shift computes. -/
theorem accumulatorShift (s : State) (k : Kind) (f : Bool → Byte → ShiftResult) (hk : baseCycles k .acc = 2) {r : ShiftResult}
    (hr : f s.cpu.flags.c s.cpu.a = r) : s.modifying k .acc (shiftOp f) noSecond =
      s.after { s.cpu with pc := s.cpu.pc + 1, a := r.value, flags := { s.cpu.flags with c := r.c }.withNZ r.value } s.toBus 2 := by
  have h := s.modifying_acc k (shiftOp f) (f := fun _ c => c) (after := noSecond) fun _ _ => rfl
  rw [h, shiftOp_eq, hr, hk]
  rfl

/-- Settles O17. -/
theorem accumulatorShifts : Obligations.AccumulatorShifts := fun s =>
  ⟨Result.next_congr (accumulatorShift s .asl shiftAsl (baseCycles_acc_two .asl (by simp)) (shiftAsl_eq ..)),
    Result.next_congr (accumulatorShift s .lsr shiftLsr (baseCycles_acc_two .lsr (by simp)) (shiftLsr_eq ..)),
    Result.next_congr (accumulatorShift s .rol shiftRol (baseCycles_acc_two .rol (by simp)) (shiftRol_eq ..)),
    Result.next_congr (accumulatorShift s .ror shiftRor (baseCycles_acc_two .ror (by simp)) (shiftRor_eq ..))⟩

section

variable (s : State) {k : Kind} {m : Operand} (hm : m ≠ .acc) (hk : pays k m.mode = false)

include hm hk

/-- A shift of a memory byte, from what the shift computes. -/
theorem memoryShift (f : Bool → Byte → ShiftResult) {r : ShiftResult}
    (hr : f s.cpu.flags.c ((s.target m).state.read (s.target m).ea).1 = r) : s.modifying k m (shiftOp f) noSecond =
      s.after { s.cpuAt m.mode with flags := { s.cpu.flags with c := r.c }.withNZ r.value }
        (((s.target m).state.read (s.target m).ea).2.toBus.write (s.target m).ea r.value) (baseCycles k m.mode) := by
  have h := s.modifying_after k hm (shiftOp f) (f := fun _ c => c) (after := noSecond) fun _ _ => rfl
  rw [h, shiftOp_eq, hr, cyclesOf_free hk]

/-- An increment or decrement of a memory byte, from its sum. -/
theorem memoryAdd (d : Byte) {v : Byte} (hv : ((s.target m).state.read (s.target m).ea).1 + d = v) :
    s.modifying k m (addOp d) noSecond = s.after { s.cpuAt m.mode with flags := s.cpu.flags.withNZ v }
      (((s.target m).state.read (s.target m).ea).2.toBus.write (s.target m).ea v) (baseCycles k m.mode) := by
  have h := s.modifying_after k hm (addOp d) (f := fun _ c => c) (after := noSecond) fun _ _ => rfl
  rw [h, addOp_eq, hv, cyclesOf_free hk]

end

/-- Settles O18: none of the six pays for a page crossing. -/
theorem memoryShifts : Obligations.MemoryShifts := by
  intro m s hm
  refine ⟨Result.next_congr ?asl, Result.next_congr ?lsr, Result.next_congr ?rol, Result.next_congr ?ror, Result.next_congr ?inc,
    Result.next_congr ?dec⟩
  case asl => rw [memoryShift s hm rfl shiftAsl (shiftAsl_eq ..)]
  case lsr => rw [memoryShift s hm rfl shiftLsr (shiftLsr_eq ..)]
  case rol => rw [memoryShift s hm rfl shiftRol (shiftRol_eq ..)]
  case ror => rw [memoryShift s hm rfl shiftRor (shiftRor_eq ..)]
  case inc => rw [memoryAdd s hm rfl 1 (add_one_eq _)]
  case dec => rw [memoryAdd s hm rfl (-1) (add_neg_one_eq _)]

/-- Settles O19. -/
theorem indexSteps : Obligations.IndexSteps := by
  intro s
  refine ⟨Result.next_congr ?inx, Result.next_congr ?iny, Result.next_congr ?dex, Result.next_congr ?dey⟩
  case inx =>
    have h := s.implied_two (f := fun c => c.loadX (c.x + 1)) (fun t => t.loadX_eq _) (baseCycles_imp_two .inx (by simp))
    exact h.trans (by rw [add_one_eq]; rfl)
  case iny =>
    have h := s.implied_two (f := fun c => c.loadY (c.y + 1)) (fun t => t.loadY_eq _) (baseCycles_imp_two .iny (by simp))
    exact h.trans (by rw [add_one_eq]; rfl)
  case dex =>
    have h := s.implied_two (f := fun c => c.loadX (c.x - 1)) (fun t => t.loadX_eq _) (baseCycles_imp_two .dex (by simp))
    exact h.trans (by rw [sub_one_eq]; rfl)
  case dey =>
    have h := s.implied_two (f := fun c => c.loadY (c.y - 1)) (fun t => t.loadY_eq _) (baseCycles_imp_two .dey (by simp))
    exact h.trans (by rw [sub_one_eq]; rfl)

/-- A shift of a memory byte whose result is then combined into `A`: `N` and `Z` come from `A`, `C` from the shift (R231 to R233). -/
theorem shiftLogic (s : State) (k : Kind) {m : Operand} (hm : m ≠ .acc) (f : Bool → Byte → ShiftResult) (g : Byte → Byte → Byte)
    {r : ShiftResult} (hr : f s.cpu.flags.c ((s.target m).state.read (s.target m).ea).1 = r) :
    s.modifying k m (shiftCarry f) (fun v t => t.putA (g t.cpu.a v)) =
      s.after { s.cpuAt m.mode with a := g s.cpu.a r.value, flags := { s.cpu.flags with c := r.c }.withNZ (g s.cpu.a r.value) }
        (((s.target m).state.read (s.target m).ea).2.toBus.write (s.target m).ea r.value) (cyclesOf k m.mode (s.target m).cross) := by
  have h := s.modifying_after k hm (shiftCarry f) (f := fun v c => c.loadA (g c.a v)) fun v t => t.loadA_eq (g t.cpu.a v)
  subst hr
  exact h

/-- Settles O20. -/
theorem shiftLogicCombinations : Obligations.ShiftLogicCombinations := by
  intro m s hm
  refine ⟨Result.next_congr ?slo, Result.next_congr ?sre, Result.next_congr ?rla⟩
  case slo => exact (shiftLogic s .slo hm shiftAsl (· ||| ·) (shiftAsl_eq ..)).trans rfl
  case sre => exact (shiftLogic s .sre hm shiftLsr (· ^^^ ·) (shiftLsr_eq ..)).trans rfl
  case rla => exact (shiftLogic s .rla hm shiftRol (· &&& ·) (shiftRol_eq ..)).trans rfl

/-- Settles O21. -/
theorem arithmeticCombinations : Obligations.ArithmeticCombinations := by
  intro m s hm
  refine ⟨?rra, ?dcp, ?isc⟩
  case rra =>
    have hrot := shiftRor_eq s.cpu.flags.c ((s.target m).state.read (s.target m).ea).1
    have h := s.modifying_after .rra hm (shiftCarry shiftRor) (f := fun v c => c.addToA v) fun v t => t.addToA_eq v
    simp only [shiftCarry, hrot, Cpu.addToA, Flags.carry, decide_mod_two_toNat] at h
    exact Result.next_congr h
  case dcp =>
    have hdown := add_neg_one_eq ((s.target m).state.read (s.target m).ea).1
    have h := s.modifying_after .dcp hm (addOnly (-1)) (f := fun v c => c.compare c.a v) fun v t => t.compareWith_eq t.cpu.a v
    simp only [addOnly, hdown] at h
    exact Result.next_congr h
  case isc =>
    have hup := add_one_eq ((s.target m).state.read (s.target m).ea).1
    have h := s.modifying_after .isc hm (addOnly 1) (f := fun v c => c.subtractFromA v) fun v t => t.subtractFromA_eq v
    simp only [addOnly, hup] at h
    exact Result.next_congr h

end Sys2Proof
end

section
/-!
PROOFS. The statements of 43_control_flow.md and 44_flags_stack_nop.md: branches, jumps, subroutines, the trap and its return, the flag and stack
instructions and the no-operations.
-/

namespace Sys2Proof.Machine

/-! Branches. -/

/-- A branch of base count 2 (R142, R250): the target or the next instruction, and the bonus of a taken one. -/
theorem State.branch_after (s : State) {k : Kind} (d : Byte) (cond : Bool) (hk : baseCycles k .rel = 2) :
    let next := s.cpu.pc + 2
    let target := next + d.signExtend 16
    s.branch k d cond = s.after { s.cpu with pc := if cond then target else next } s.toBus
      (if cond then (if next.toNat / 256 = target.toNat / 256 then 3 else 4) else 2) := by
  intro next target
  have hbonus : 2 + branchBonus next target = if next.toNat / 256 = target.toNat / 256 then 3 else 4 := by
    simp only [branchBonus, ← BitVec.toNat_inj, hiByte_toNat]
    split
    · rfl
    · rfl
  cases cond with
  | false =>
    show (s.advance .rel).setCycles (baseCycles k .rel) = _
    rw [hk]
    rfl
  | true =>
    show ((s.advance .rel).setPC target).setCycles (baseCycles k .rel + branchBonus next target) = _
    rw [hk, hbonus]
    rfl

/-! The stack. -/

/-- A word pushed: two bytes of the stack page, the high one first (R85, R86). -/
theorem State.pushWord_eq (s : State) (w : Word) :
    s.pushWord w = { s with toBus := s.toBus.putStackWord s.cpu.sp w, cpu := { s.cpu with sp := s.cpu.sp - 2 } } := by
  have hsp : s.cpu.sp - 1 - 1 = s.cpu.sp - 2 := by bv_omega
  simp only [State.pushWord, State.push_eq, hsp]

/-- A word pulled: two bytes of the stack page, the low one first (R87). -/
theorem State.pullWord_eq (s : State) : s.pullWord = (wordOf (s.stackByte (s.cpu.sp + 1)) (s.stackByte (s.cpu.sp + 2)),
    { s with cpu := { s.cpu with sp := s.cpu.sp + 2 } }) := by
  have hsp : s.cpu.sp + 1 + 1 = s.cpu.sp + 2 := by bv_omega
  simp only [State.pullWord, State.pull_eq, hsp]

/-- The bus after the three pushes of a trap or an interrupt (R262, R507). -/
abbrev Bus.putFrame (b : Bus) (sp : Byte) (returnAddr : Word) (status : Byte) : Bus :=
  (b.putStackWord sp returnAddr).putStack (sp - 2) status

/-- A trap or interrupt entry: the frame pushed, then `PC` read through the bus from the vector. -/
theorem State.enter_eq (s : State) (returnAddr : Word) (status : Byte) (flags : Flags) (vector : Word) :
    let lo := (s.toBus.putFrame s.cpu.sp returnAddr status).read vector
    let hi := lo.2.read (vector + 1)
    s.enter returnAddr status flags vector =
      { s with toBus := hi.2, cpu := { s.cpu with pc := wordOf lo.1 hi.1, sp := s.cpu.sp - 3, flags := flags } } := by
  have hsp : s.cpu.sp - 2 - 1 = s.cpu.sp - 3 := by bv_omega
  simp only [State.enter, State.pushWord_eq, State.push_eq, hsp]
  rfl

/-- The return from a trap or an interrupt: three pulls (R263). -/
theorem State.returnFromInterrupt_eq (s : State) : s.returnFromInterrupt = { s with cpu := { s.cpu with
    pc := wordOf (s.stackByte (s.cpu.sp + 2)) (s.stackByte (s.cpu.sp + 3)), sp := s.cpu.sp + 3
    flags := flagsOfBits (s.stackByte (s.cpu.sp + 1)) } } := by
  have hsp2 : s.cpu.sp + 1 + 1 = s.cpu.sp + 2 := by bv_omega
  have hsp3 : s.cpu.sp + 1 + 2 = s.cpu.sp + 3 := by bv_omega
  simp only [State.returnFromInterrupt, State.pull_eq, State.pullWord_eq, State.setFlags_cpu, hsp2, hsp3]
  rfl

/-- An instruction without operand: its action after the advance of `PC`, and its base count. -/
theorem State.implied_eq (s : State) (k : Kind) (act : State → State) :
    s.implied k act = (act (s.advance .imp)).setCycles (baseCycles k .imp) := by
  rw [State.implied, State.charge, Bool.and_false]
  rfl

/-- The second pointer byte of the indirect mode: the next address in the pointer's page (R138). -/
theorem pointerHigh_eq {p q : Word} (h : q.toNat = p.toNat / 256 * 256 + (p.toNat + 1) % 256) :
    wordOf (loByte p + 1) (hiByte p) = q := by
  apply BitVec.eq_of_toNat_eq
  rw [wordOf_toNat, BitVec.toNat_add, loByte_toNat, hiByte_toNat, h]
  have : (1 : Byte).toNat = 1 := rfl
  omega

/-! The status byte. -/

theorem Flags.toByte_toNat (f : Flags) : f.toByte.toNat = f.c.toNat + 2 * f.z.toNat + 4 * f.i.toNat + 8 * f.d.toNat + 16 * f.b.toNat + 32 +
    64 * f.v.toNat + 128 * f.n.toNat := by
  obtain ⟨c, z, i, d, b, v, n⟩ := f
  cases c <;> cases z <;> cases i <;> cases d <;> cases b <;> cases v <;> cases n <;> rfl

@[simp] theorem Flags.ofByte_toByte (f : Flags) : Flags.ofByte f.toByte = f := by
  obtain ⟨c, z, i, d, b, v, n⟩ := f
  cases c <;> cases z <;> cases i <;> cases d <;> cases b <;> cases v <;> cases n <;> rfl

theorem Flags.toByte_ofByte : ∀ p : Byte, (Flags.ofByte p).toByte = p ||| 0x20 := by decide +kernel

end Sys2Proof.Machine

namespace Sys2Proof

open Machine

theorem baseCycles_rel_two : ∀ k ∈ [Kind.bcc, .bcs, .bne, .beq, .bpl, .bmi, .bvc, .bvs], baseCycles k .rel = 2 := by decide +kernel

/-- Settles O22. -/
theorem branches : Obligations.Branches := fun d s =>
  ⟨Result.next_congr (s.branch_after d _ (baseCycles_rel_two .bcc (by simp))),
    Result.next_congr (s.branch_after d _ (baseCycles_rel_two .bcs (by simp))),
    Result.next_congr (s.branch_after d _ (baseCycles_rel_two .bne (by simp))),
    Result.next_congr (s.branch_after d _ (baseCycles_rel_two .beq (by simp))),
    Result.next_congr (s.branch_after d _ (baseCycles_rel_two .bpl (by simp))),
    Result.next_congr (s.branch_after d _ (baseCycles_rel_two .bmi (by simp))),
    Result.next_congr (s.branch_after d _ (baseCycles_rel_two .bvc (by simp))),
    Result.next_congr (s.branch_after d _ (baseCycles_rel_two .bvs (by simp)))⟩

/-- The base counts of the jumps, the subroutine and trap instructions and the stack instructions (R146). -/
theorem baseCycles_control : baseCycles .jmp .abs = 3 ∧ baseCycles .jmp .ind = 5 ∧ baseCycles .jsr .abs = 6 ∧ baseCycles .rts .imp = 6 ∧
    baseCycles .brk .imp = 7 ∧ baseCycles .rti .imp = 6 ∧ baseCycles .pha .imp = 3 ∧ baseCycles .php .imp = 3 ∧
    baseCycles .pla .imp = 4 ∧ baseCycles .plp .imp = 4 := by
  decide +kernel

/-- Settles O23. -/
theorem jump : Obligations.Jump := by
  obtain ⟨habs, hind, -⟩ := baseCycles_control
  refine ⟨fun w s => Result.next_congr ?abs, fun p q s hq => Result.next_congr ?ind⟩
  case abs =>
    show State.setCycles _ (baseCycles .jmp .abs) = _
    rw [habs]
    rfl
  case ind =>
    show State.setCycles (State.setPC ((s.advance .ind).readPointer p).2 ((s.advance .ind).readPointer p).1) (baseCycles .jmp .ind) = _
    rw [hind, State.readPointer, pointerHigh_eq hq]
    rfl

/-- Settles O24. -/
theorem subroutines : Obligations.Subroutines := by
  obtain ⟨-, -, hjsr, hrts, -⟩ := baseCycles_control
  intro target s
  refine ⟨Result.next_congr ?jsr, Result.next_congr ?rts⟩
  case jsr =>
    rw [State.pushWord_eq]
    show State.setCycles _ (baseCycles .jsr .abs) = _
    rw [hjsr]
    rfl
  case rts =>
    rw [State.implied_eq, State.pullWord_eq, hrts]
    rfl

/-- Settles O25: the two bytes pushed are the two pulled, at the stack pointer values one and two above. -/
theorem jsrThenRts : Obligations.JsrThenRts := by
  intro target s
  refine ⟨_, _, (subroutines target s).1, (subroutines target _).2, ?_⟩
  have hlo : s.cpu.sp - 2 + 1 = s.cpu.sp - 1 := by bv_omega
  have hhi : s.cpu.sp - 2 + 2 = s.cpu.sp := by bv_omega
  have hne : s.cpu.sp ≠ s.cpu.sp - 1 := by bv_omega
  have hpc : s.cpu.pc + 2 + 1 = s.cpu.pc + 3 := by bv_omega
  simp only [Bus.stackByte_putStack, hlo, hhi, if_true, if_neg hne, wordOf_loByte_hiByte, hpc]

/-- Settles O26. -/
theorem breakAndReturn : Obligations.BreakAndReturn := by
  obtain ⟨-, -, -, -, hbrk, hrti, -⟩ := baseCycles_control
  intro s
  refine ⟨Result.next_congr ?brk, Result.next_congr ?rti⟩
  case brk =>
    rw [State.implied_eq, State.enter_eq, hbrk]
    rfl
  case rti =>
    rw [State.implied_eq, State.returnFromInterrupt_eq, hrti]
    rfl

/-- Settles O27. -/
theorem statusByte : Obligations.StatusByte :=
  ⟨fun f => ⟨f.toByte_toNat, f.ofByte_toByte⟩, fun p => ⟨rfl, Flags.toByte_ofByte p⟩⟩

/-- Settles O28. -/
theorem flagInstructions : Obligations.FlagInstructions := by
  intro s
  have flag {k : Kind} (hk : baseCycles k .imp = 2) (g : Flags → Flags) :
      s.implied k (fun t => t.setFlags (g t.cpu.flags)) =
        s.after { s.cpu with pc := s.cpu.pc + 1, flags := g s.cpu.flags } s.toBus 2 :=
    s.implied_two (f := fun c => { c with flags := g c.flags }) (fun _ => rfl) hk
  exact ⟨Result.next_congr (flag (baseCycles_imp_two .clc (by simp)) fun f => { f with c := false }),
    Result.next_congr (flag (baseCycles_imp_two .sec (by simp)) fun f => { f with c := true }),
    Result.next_congr (flag (baseCycles_imp_two .cli (by simp)) fun f => { f with i := false }),
    Result.next_congr (flag (baseCycles_imp_two .sei (by simp)) fun f => { f with i := true }),
    Result.next_congr (flag (baseCycles_imp_two .cld (by simp)) fun f => { f with d := false }),
    Result.next_congr (flag (baseCycles_imp_two .sed (by simp)) fun f => { f with d := true }),
    Result.next_congr (flag (baseCycles_imp_two .clv (by simp)) fun f => { f with v := false })⟩

/-- Settles O29. -/
theorem stackInstructions : Obligations.StackInstructions := by
  obtain ⟨-, -, -, -, -, -, hpha, hphp, hpla, hplp⟩ := baseCycles_control
  intro s
  refine ⟨Result.next_congr ?pha, Result.next_congr ?php, Result.next_congr ?pla, Result.next_congr ?plp⟩
  case pha => rw [State.implied_eq, State.push_eq, hpha]; rfl
  case php => rw [State.implied_eq, State.push_eq, hphp]; rfl
  case pla => rw [State.implied_eq, State.pull_eq, hpla, State.loadA_eq]; rfl
  case plp => rw [State.implied_eq, State.pull_eq, hplp]; rfl

/-- Settles O31. -/
theorem noOperations : Obligations.NoOperations := by
  intro op v m s
  refine ⟨Result.next_congr ?nop, Result.next_congr ?skb, Result.next_congr ?ign⟩
  case nop => exact s.implied_two (f := fun c => c) (fun _ => rfl) (baseCycles_imp_two .nop (by simp))
  case skb =>
    show (s.advance .imm).setCycles (baseCycles .skb .imm) = _
    rw [baseCycles_imm_two .skb (by simp)]
    rfl
  case ign => exact s.reading_after .ign m (f := fun _ c => c) fun _ _ => rfl

/-- Settles O32. -/
theorem unfilledHalts : Obligations.UnfilledHalts := by
  intro op s
  have haddr : haltAddress s.cfg.haltAddrMode s.cpu.pc = if s.cfg.haltAddrMode = .opcodeByte then s.cpu.pc else s.cpu.pc + 1 := by
    cases s.cfg.haltAddrMode <;> rfl
  rw [← haddr]
  rfl

end Sys2Proof
end

section
/-!
PROOFS. The registers after each of the shared operations, and the frames over all instructions that follow: which registers and which flags an instruction
can change (10_state.md rule R32; files 40 to 44 of the spec).
-/

namespace Sys2Proof.Machine

/-! The registers after a shared operation. -/

@[simp] theorem State.push_cpu (s : State) (v : Byte) : (s.push v).cpu = { s.cpu with sp := s.cpu.sp - 1 } := rfl

@[simp] theorem State.pushWord_cpu (s : State) (w : Word) : (s.pushWord w).cpu = { s.cpu with sp := s.cpu.sp - 1 - 1 } := rfl

@[simp] theorem State.pull_cpu (s : State) : s.pull.2.cpu = { s.cpu with sp := s.cpu.sp + 1 } := rfl

@[simp] theorem State.pullWord_cpu (s : State) : s.pullWord.2.cpu = { s.cpu with sp := s.cpu.sp + 1 + 1 } := rfl

@[simp] theorem State.read16_cpu (s : State) (a : Word) : (s.read16 a).2.cpu = s.cpu := rfl

@[simp] theorem State.putAlu_cpu (s : State) (r : AluResult) : (s.putAlu r).cpu = { s.cpu with a := r.value, flags := s.cpu.flags.ofAlu r } := rfl

@[simp] theorem State.putA_cpu (s : State) (v : Byte) : (s.putA v).cpu = { s.cpu with a := v, flags := s.cpu.flags.setNZ v } := rfl

@[simp] theorem State.addToA_cpu (s : State) (v : Byte) : (s.addToA v).cpu =
    { s.cpu with a := (adder s.cpu.a v s.cpu.flags.c).value, flags := s.cpu.flags.ofAlu (adder s.cpu.a v s.cpu.flags.c) } := rfl

@[simp] theorem State.subtractFromA_cpu (s : State) (v : Byte) : (s.subtractFromA v).cpu =
    { s.cpu with a := (subtracter s.cpu.a v s.cpu.flags.c).value, flags := s.cpu.flags.ofAlu (subtracter s.cpu.a v s.cpu.flags.c) } := rfl

@[simp] theorem State.compareWith_cpu (s : State) (q v : Byte) :
    (s.compareWith q v).cpu = { s.cpu with flags := s.cpu.flags.compare q v } := rfl

@[simp] theorem noSecond_eq (v : Byte) (s : State) : noSecond v s = s := rfl

@[simp] theorem shiftOp_flags (f : Bool → Byte → ShiftResult) (fl : Flags) (v : Byte) : (shiftOp f fl v).flags = fl.ofShift (f fl.c v) := rfl

@[simp] theorem shiftCarry_flags (f : Bool → Byte → ShiftResult) (fl : Flags) (v : Byte) :
    (shiftCarry f fl v).flags = { fl with c := (f fl.c v).c } := rfl

@[simp] theorem addOp_flags (d : Byte) (fl : Flags) (v : Byte) : (addOp d fl v).flags = fl.setNZ (v + d) := rfl

@[simp] theorem addOnly_flags (d : Byte) (fl : Flags) (v : Byte) : (addOnly d fl v).flags = fl := rfl

/-! What the updates of the flags leave (R31, R32). -/

@[simp] theorem Flags.ofShift_kept (f : Flags) (r : ShiftResult) : (f.ofShift r).i = f.i ∧ (f.ofShift r).d = f.d ∧ (f.ofShift r).b = f.b ∧
    (f.ofShift r).v = f.v := ⟨rfl, rfl, rfl, rfl⟩

@[simp] theorem Flags.ofAlu_kept (f : Flags) (r : AluResult) : (f.ofAlu r).i = f.i ∧ (f.ofAlu r).d = f.d ∧ (f.ofAlu r).b = f.b :=
  ⟨rfl, rfl, rfl⟩

@[simp] theorem Flags.compare_kept (f : Flags) (q v : Byte) : (f.compare q v).i = f.i ∧ (f.compare q v).d = f.d ∧ (f.compare q v).b = f.b ∧
    (f.compare q v).v = f.v := ⟨rfl, rfl, rfl, rfl⟩

@[simp] theorem Flags.bitTest_kept (f : Flags) (a v : Byte) : (f.bitTest a v).c = f.c ∧ (f.bitTest a v).i = f.i ∧ (f.bitTest a v).d = f.d ∧
    (f.bitTest a v).b = f.b := ⟨rfl, rfl, rfl, rfl⟩

@[simp] theorem State.operand_cpu (s : State) (m : Operand) : (s.operand m).state.cpu = s.cpuAt m.mode := State.readOperand_cpu ..

@[simp] theorem State.implied_cpu (s : State) (k : Kind) (act : State → State) : (s.implied k act).cpu = (act (s.advance .imp)).cpu := rfl

@[simp] theorem State.reading_cpu (s : State) (k : Kind) (m : Operand) (act : Byte → State → State) :
    (s.reading k m act).cpu = (act (s.operand m).value (s.operand m).state).cpu := rfl

@[simp] theorem State.storing_cpu (s : State) (k : Kind) (m : Operand) (v : Byte) : (s.storing k m v).cpu = s.cpuAt m.mode :=
  State.resolve_cpu ..

/-- The byte a read-modify-write instruction reads: `A`, or the one read at the effective address (R220). -/
def State.modifiedByte (s : State) (m : Operand) : Byte :=
  match m with
  | .acc => s.cpu.a
  | m => ((s.target m).state.read (s.target m).ea).1

/-- What the first operation of a read-modify-write instruction computes. -/
abbrev State.modified (s : State) (m : Operand) (act : Flags → Byte → Modified) : Modified := act s.cpu.flags (s.modifiedByte m)

/-- The machine between the two operations of a read-modify-write instruction: the result and the flags of the first are written (R220). -/
def State.afterFirst (s : State) (m : Operand) (act : Flags → Byte → Modified) : State :=
  match m with
  | .acc => ((s.advance .acc).setA (s.modified .acc act).value).setFlags (s.modified .acc act).flags
  | m => (((s.target m).state.read (s.target m).ea).2.setFlags (s.modified m act).flags).write (s.target m).ea (s.modified m act).value

@[simp] theorem State.modifying_cpu (s : State) (k : Kind) (m : Operand) (act : Flags → Byte → Modified) (after : Byte → State → State) :
    (s.modifying k m act after).cpu = (after (s.modified m act).value (s.afterFirst m act)).cpu := by
  cases m <;> rfl

@[simp] theorem State.afterFirst_cpu (s : State) (m : Operand) (act : Flags → Byte → Modified) : (s.afterFirst m act).cpu =
    { s.cpuAt m.mode with a := if m = .acc then (s.modified m act).value else s.cpu.a, flags := (s.modified m act).flags } := by
  cases m <;> rfl

@[simp] theorem State.resolve_target_cpu (s : State) (m : Operand) : (s.target m).state.cpu = s.cpuAt m.mode := State.resolve_cpu ..

/-- A branch writes `PC` alone. -/
@[simp] theorem State.branch_kept (s : State) (k : Kind) (d : Byte) (c : Bool) :
    (s.branch k d c).cpu.a = s.cpu.a ∧ (s.branch k d c).cpu.x = s.cpu.x ∧ (s.branch k d c).cpu.y = s.cpu.y ∧
      (s.branch k d c).cpu.sp = s.cpu.sp ∧ (s.branch k d c).cpu.flags = s.cpu.flags := by
  cases c <;> exact ⟨rfl, rfl, rfl, rfl, rfl⟩

@[simp] theorem State.enter_cpu_kept (s : State) (r : Word) (p : Byte) (f : Flags) (vector : Word) :
    (s.enter r p f vector).cpu.a = s.cpu.a ∧ (s.enter r p f vector).cpu.x = s.cpu.x ∧ (s.enter r p f vector).cpu.y = s.cpu.y ∧
      (s.enter r p f vector).cpu.flags = f := ⟨rfl, rfl, rfl, rfl⟩

@[simp] theorem State.returnFromInterrupt_kept (s : State) : s.returnFromInterrupt.cpu.a = s.cpu.a ∧
    s.returnFromInterrupt.cpu.x = s.cpu.x ∧ s.returnFromInterrupt.cpu.y = s.cpu.y := ⟨rfl, rfl, rfl⟩

end Sys2Proof.Machine

namespace Sys2Proof

open Machine

/-- Settles O33: one case for each set of registers an instruction can write. -/
theorem registerFrame : Obligations.RegisterFrame := by
  intro i s
  cases i
  case lda | adc | sbc | and | ora | eor | alr | anc | arr | slo | sre | rla | rra | isc | txa | tya =>
    exact ⟨_, rfl, nofun, fun _ => by simp, fun _ => by simp, fun _ => by simp⟩
  case lax => exact ⟨_, rfl, nofun, nofun, fun _ => by simp, fun _ => by simp⟩
  case pla => exact ⟨_, rfl, nofun, fun _ => by simp, fun _ => by simp, nofun⟩
  case asl m | lsr m | rol m | ror m | inc m | dec m | dcp m =>
    exact ⟨_, rfl, fun _ (hm : m ≠ .acc) => by simp [hm], fun _ => by simp, fun _ => by simp, fun _ => by simp⟩
  case ldx | tax | tsx | inx | dex | axs => exact ⟨_, rfl, fun _ _ => by simp, nofun, fun _ => by simp, fun _ => by simp⟩
  case ldy | tay | iny | dey => exact ⟨_, rfl, fun _ _ => by simp, fun _ => by simp, nofun, fun _ => by simp⟩
  case txs | pha | php | plp | jsr | rts => exact ⟨_, rfl, fun _ _ => by simp, fun _ => by simp, fun _ => by simp, nofun⟩
  case brk | rti => exact ⟨_, rfl, fun _ _ => by simp, fun _ => by simp, fun _ => by simp, nofun⟩
  case skb | unfilled => exact ⟨_, rfl, fun _ _ => rfl, fun _ => rfl, fun _ => rfl, fun _ => rfl⟩
  all_goals exact ⟨_, rfl, fun _ _ => by simp, fun _ => by simp, fun _ => by simp, fun _ => by simp⟩

/-- Settles O34: one case for each set of flags an instruction can write (R32). -/
theorem flagFrame : Obligations.FlagFrame := by
  intro i s
  cases i
  case adc | sbc | arr | axs | isc | rra =>
    exact ⟨_, rfl, nofun, nofun, fun _ => by simp, fun _ => by simp, fun _ => by simp, nofun⟩
  case cmp | cpx | cpy | asl | lsr | rol | ror | alr | anc | dcp | rla | slo | sre =>
    exact ⟨_, rfl, nofun, nofun, fun _ => by simp, fun _ => by simp, fun _ => by simp, fun _ => by simp⟩
  case and | ora | eor | inc | dec | inx | iny | dex | dey | lda | ldx | ldy | lax | tax | tay | tsx | txa | tya | pla =>
    exact ⟨_, rfl, fun _ => by simp, nofun, fun _ => by simp, fun _ => by simp, fun _ => by simp, fun _ => by simp⟩
  case bit => exact ⟨_, rfl, fun _ => by simp, nofun, fun _ => by simp, fun _ => by simp, fun _ => by simp, nofun⟩
  case clc | sec => exact ⟨_, rfl, nofun, fun _ => ⟨rfl, rfl⟩, fun _ => rfl, fun _ => rfl, fun _ => rfl, fun _ => rfl⟩
  case cli | sei => exact ⟨_, rfl, fun _ => rfl, fun _ => ⟨rfl, rfl⟩, nofun, fun _ => rfl, fun _ => rfl, fun _ => rfl⟩
  case cld | sed => exact ⟨_, rfl, fun _ => rfl, fun _ => ⟨rfl, rfl⟩, fun _ => rfl, nofun, fun _ => rfl, fun _ => rfl⟩
  case clv => exact ⟨_, rfl, fun _ => rfl, fun _ => ⟨rfl, rfl⟩, fun _ => rfl, fun _ => rfl, fun _ => rfl, nofun⟩
  case php => exact ⟨_, rfl, fun _ => rfl, fun _ => ⟨rfl, rfl⟩, fun _ => rfl, fun _ => rfl, nofun, fun _ => rfl⟩
  case brk =>
    exact ⟨_, rfl, fun _ => by simp [Flags.afterBrk], fun _ => by simp [Flags.afterBrk], nofun, fun _ => by simp [Flags.afterBrk], nofun,
      fun _ => by simp [Flags.afterBrk]⟩
  case plp | rti => exact ⟨_, rfl, nofun, nofun, nofun, nofun, nofun, nofun⟩
  case skb | unfilled => exact ⟨_, rfl, fun _ => rfl, fun _ => ⟨rfl, rfl⟩, fun _ => rfl, fun _ => rfl, fun _ => rfl, fun _ => rfl⟩
  all_goals exact ⟨_, rfl, fun _ => by simp, fun _ => by simp, fun _ => by simp, fun _ => by simp, fun _ => by simp, fun _ => by simp⟩

end Sys2Proof
end

section
/-!
PROOFS. The memory frames over all instructions: with a mapper type of the spec a read changes no byte, a store at most the bytes that `Bus.touches` names
(20_memory.md section 2), and a push at most a byte of the stack page (section 4).
-/

namespace Sys2Proof.Machine

/-! Operations that only read. -/

/-- What an operation that stores nothing leaves: the cartridge, and with a mapper type of the spec every byte of memory. -/
def State.SameMemory (s t : State) : Prop := s.toBus.Keeps t.toBus ∧ (s.closedMapper → ∀ x, t.peek x = s.peek x)

theorem State.SameMemory.of_bus {s t : State} (h : t.toBus = s.toBus) : s.SameMemory t :=
  ⟨h ▸ .refl _, fun _ x => congrArg (fun b : Bus => b.peek x) h⟩

theorem State.SameMemory.trans {s t u : State} (h : s.SameMemory t) (h' : t.SameMemory u) : s.SameMemory u :=
  ⟨h.1.trans h'.1, fun hc x => (h'.2 (h.1.closed hc) x).trans (h.2 hc x)⟩

theorem State.sameMemory_read (s : State) (a : Word) : s.SameMemory (s.read a).2 :=
  ⟨s.toBus.keeps_read a, fun hc => Bus.peek_read hc a⟩

theorem State.sameMemory_read16 (s : State) (a : Word) : s.SameMemory (s.read16 a).2 :=
  (s.sameMemory_read a).trans (State.sameMemory_read ..)

theorem State.sameMemory_readPointer (s : State) (a : Word) : s.SameMemory (s.readPointer a).2 :=
  (s.sameMemory_read a).trans (State.sameMemory_read ..)

theorem State.sameMemory_target (s : State) (m : Operand) : s.SameMemory (s.target m).state := by
  cases m
  case indx => exact State.sameMemory_read16 (s.advance .indx) _
  case indy => exact State.sameMemory_read16 (s.advance .indy) _
  case ind => exact State.sameMemory_readPointer (s.advance .ind) _
  all_goals exact .of_bus rfl

theorem State.sameMemory_operand (s : State) (m : Operand) : s.SameMemory (s.operand m).state := by
  cases m
  case imm | acc => exact .of_bus rfl
  all_goals exact (s.sameMemory_target _).trans (State.sameMemory_read ..)

theorem State.sameMemory_pull (s : State) : s.SameMemory s.pull.2 := State.sameMemory_read (s.setSP (s.cpu.sp + 1)) _

theorem State.sameMemory_pullWord (s : State) : s.SameMemory s.pullWord.2 := s.sameMemory_pull.trans (State.sameMemory_pull _)

theorem State.sameMemory_reading (s : State) (k : Kind) (m : Operand) {act : Byte → State → State} (h : ∀ v t, (act v t).toBus = t.toBus) :
    s.SameMemory (s.reading k m act) :=
  (s.sameMemory_operand m).trans (.of_bus (h _ _))

theorem State.sameMemory_branch (s : State) (k : Kind) (d : Byte) (c : Bool) : s.SameMemory (s.branch k d c) := by
  cases c <;> exact .of_bus rfl

theorem State.sameMemory_modifying_acc (s : State) (k : Kind) (act : Flags → Byte → Modified) {after : Byte → State → State}
    (h : ∀ v t, (after v t).toBus = t.toBus) : s.SameMemory (s.modifying k .acc act after) := .of_bus (h _ _)

/-- An instruction that stores nothing leaves the memory. -/
theorem sameMemory_exec {i : Instr} (s : State) (hwf : WellFormed i = true) (hpush : kindIn i pushers = false)
    (hstore : kindIn i operandStores = false ∨ i.operand = .acc) :
    ∃ t, exec i s = .next t ∧ s.SameMemory t := by
  cases i
  case pha | php | jsr | brk => cases hpush
  case sta m | stx m | sty m | sax m =>
    obtain rfl : m = .acc := hstore.resolve_left nofun
    cases hwf
  case asl m | lsr m | rol m | ror m | inc m | dec m | slo m | sre m | rla m | rra m | dcp m | isc m =>
    obtain rfl : m = .acc := hstore.resolve_left nofun
    exact ⟨_, rfl, s.sameMemory_modifying_acc _ _ fun _ _ => rfl⟩
  case bcc | bcs | beq | bne | bmi | bpl | bvc | bvs => exact ⟨_, rfl, s.sameMemory_branch ..⟩
  case jmp m => exact ⟨_, rfl, s.sameMemory_target m⟩
  case skb => exact ⟨_, rfl, .of_bus rfl⟩
  case unfilled => exact ⟨_, rfl, s.toBus.keeps_events _, fun _ _ => rfl⟩
  case rti => exact ⟨_, rfl, (State.sameMemory_pull (s.advance .imp)).trans (State.sameMemory_pullWord _)⟩
  case rts => exact ⟨_, rfl, State.sameMemory_pullWord (s.advance .imp)⟩
  case pla | plp => exact ⟨_, rfl, State.sameMemory_pull (s.advance .imp)⟩
  case lda | ldx | ldy | lax | adc | sbc | and | ora | eor | cmp | cpx | cpy | bit | alr | anc | arr | axs | ign =>
    exact ⟨_, rfl, s.sameMemory_reading _ _ fun _ _ => rfl⟩
  all_goals exact ⟨_, rfl, .of_bus rfl⟩

/-! Operations that store at the effective address. -/

theorem Bus.touches_congr {b b' : Bus} (h : b'.cart = b.cart) (a : Word) (x : Nat) : b'.touches a x = b.touches a x := by
  unfold Bus.touches
  rw [h]

/-- A store after an operation that only reads changes at most the bytes that it touches. -/
theorem State.SameMemory.peek_write {s t : State} (h : s.SameMemory t) (hc : s.closedMapper) {a : Word} (v : Byte) {x : Nat}
    (hx : s.touches a x = false) : (t.toBus.write a v).peek x = s.peek x :=
  (Bus.peek_write (h.1.closed hc) a v ((Bus.touches_congr h.1.2.1 a x).trans hx)).trans (h.2 hc x)

theorem State.modifying_toBus (s : State) (k : Kind) {m : Operand} (hm : m ≠ .acc) (act : Flags → Byte → Modified)
    {after : Byte → State → State} (h : ∀ v t, (after v t).toBus = t.toBus) :
    (s.modifying k m act after).toBus =
      ((s.target m).state.read (s.target m).ea).2.toBus.write (s.target m).ea (s.modified m act).value := by
  cases m with
  | acc => exact absurd rfl hm
  | _ => exact h _ _

section
variable {s : State} (hc : s.closedMapper) {m : Operand} {x : Nat} (hx : s.touches (s.target m).ea x = false)
include hc hx

theorem State.peek_storing (k : Kind) (v : Byte) : (s.storing k m v).peek x = s.peek x := (s.sameMemory_target m).peek_write hc v hx

theorem State.peek_modifying (k : Kind) (hm : m ≠ .acc) (act : Flags → Byte → Modified) {after : Byte → State → State}
    (h : ∀ v t, (after v t).toBus = t.toBus) : (s.modifying k m act after).peek x = s.peek x := by
  rw [s.modifying_toBus k hm act h]
  exact ((s.sameMemory_target m).trans (State.sameMemory_read _ (s.target m).ea)).peek_write hc _ hx

end

/-! Pushes. -/

/-- What pushes from a stack pointer value leave, `n` bytes down: every byte that none of the stores touches. -/
def State.SameButStack (s t : State) (sp : Byte) (n : Nat) : Prop :=
  s.toBus.Keeps t.toBus ∧ (s.closedMapper → ∀ x, (∀ k < n, s.touches (stackAddr (sp - BitVec.ofNat 8 k)) x = false) → t.peek x = s.peek x)

theorem State.SameMemory.pushed {s t : State} (h : s.SameMemory t) (sp : Byte) : s.SameButStack t sp 0 := ⟨h.1, fun hc x _ => h.2 hc x⟩

theorem State.SameButStack.andReads {s t u : State} {sp : Byte} {n : Nat} (h : s.SameButStack t sp n) (h' : t.SameMemory u) :
    s.SameButStack u sp n :=
  ⟨h.1.trans h'.1, fun hc x hx => (h'.2 (h.1.closed hc) x).trans (h.2 hc x hx)⟩

/-- One more push. -/
theorem State.SameButStack.push {s t : State} {sp : Byte} {n : Nat} (h : s.SameButStack t sp n) (hsp : t.cpu.sp = sp - BitVec.ofNat 8 n)
    (v : Byte) : s.SameButStack (t.push v) sp (n + 1) := by
  refine ⟨h.1.trans (t.keeps_push v).1, fun hc x hx => ?_⟩
  have hlast : t.touches (stackAddr t.cpu.sp) x = false := by
    rw [hsp, Bus.touches_congr h.1.2.1]
    exact hx n (by omega)
  calc (t.push v).peek x = t.peek x := Bus.peek_write (h.1.closed hc) _ v hlast
    _ = s.peek x := h.2 hc x fun k hk => hx k (by omega)

theorem State.SameButStack.pushWord {s t : State} {sp : Byte} {n : Nat} (h : s.SameButStack t sp n) (hsp : t.cpu.sp = sp - BitVec.ofNat 8 n)
    (w : Word) : s.SameButStack (t.pushWord w) sp (n + 2) := by
  have hsp' : t.cpu.sp - 1 = sp - BitVec.ofNat 8 (n + 1) := by
    rw [hsp, BitVec.ofNat_add]
    grind
  exact (h.push hsp _).push hsp' _

/-- The entry of a trap or an interrupt pushes three bytes. -/
theorem State.sameButStack_enter (s : State) (r : Word) (p : Byte) (f : Flags) (vector : Word) :
    s.SameButStack (s.enter r p f vector) s.cpu.sp 3 := by
  have hword := ((State.SameMemory.of_bus (s := s) rfl).pushed s.cpu.sp).pushWord (by simp) r
  exact (hword.push (by simp; grind) p).andReads (State.sameMemory_read16 _ vector)

end Sys2Proof.Machine

namespace Sys2Proof

open Machine

/-- Settles O35: every shape without a store is a chain of reads. -/
theorem noStoreMemoryFrame : Obligations.NoStoreMemoryFrame := by
  intro i s hwf hc hpush hstore
  obtain ⟨t, ht, -, hpeek⟩ := sameMemory_exec s hwf hpush hstore
  exact ⟨t, ht, hpeek hc⟩

/-- Settles O36: the one write follows operations that only read. -/
theorem storeMemoryFrame : Obligations.StoreMemoryFrame := by
  intro i s _ hc hstore hacc
  cases i
  case sta | stx | sty | sax => exact ⟨_, rfl, fun x hx => State.peek_storing hc hx _ _⟩
  case asl | lsr | rol | ror | inc | dec | slo | sre | rla | rra | dcp | isc =>
    exact ⟨_, rfl, fun x hx => State.peek_modifying hc hx _ hacc _ fun _ _ => rfl⟩
  all_goals cases hstore

/-- Settles O37: the pushes are counted down from the stack pointer. -/
theorem pushMemoryFrame : Obligations.PushMemoryFrame := by
  intro i s _ hc hpush
  have start : s.SameButStack (s.advance .imp) s.cpu.sp 0 := (State.SameMemory.of_bus rfl).pushed _
  cases i
  case pha => exact ⟨_, rfl, (start.push (by simp) _).2 hc⟩
  case php => exact ⟨_, rfl, (State.SameButStack.push (t := (s.advance .imp).setFlags _) start (by simp) _).2 hc⟩
  case jsr => exact ⟨_, rfl, (State.SameButStack.pushWord (t := s.advance .abs) start (by simp) _).2 hc⟩
  case brk => exact ⟨_, rfl, (State.sameButStack_enter (s.advance .imp) ..).2 hc⟩
  all_goals cases hpush

end Sys2Proof
end

section
/-!
PROOFS. Interrupts (60_exceptions.md section 2): what a dispatch does, and the return from it.
-/

namespace Sys2Proof.Machine

/-! Plain words of memory. -/

/-- A word read from plain addresses: nothing changes (R84). -/
theorem State.read16_plain {s : State} (hc : s.closedMapper) {a : Word} (h : plainAddr a) (h' : plainAddr (a + 1)) :
    s.read16 a = (wordOf (s.peek a.toNat) (s.peek (a + 1).toNat), s) := by
  simp only [State.read16, State.read, Bus.read_plain hc h, Bus.read_plain hc h']

/-- The vectors lie in the program window, where no push reaches. -/
structure Vector (v : Word) : Prop where
  plain : plainAddr v
  plain_next : plainAddr (v + 1)
  high : 0x2000 ≤ v.toNat
  high_next : 0x2000 ≤ (v + 1).toNat

theorem vector_irq (k : IrqKind) : Vector (irqVector k) := by
  cases k <;> exact ⟨rfl, rfl, by decide, by decide⟩

/-! The entry and the return. -/

theorem Bus.peek_putStack (b : Bus) (sp v : Byte) {x : Nat} (hx : 0x2000 ≤ x) : (b.putStack sp v).peek x = b.peek x := by
  have hsp : sp.toNat < 256 := sp.isLt
  have hne : x ≠ 0x100 + sp.toNat := by omega
  unfold Bus.peek
  rw [if_neg (by omega), Bus.memAt_setMem, if_neg hne]

theorem Bus.peek_putFrame (b : Bus) (sp : Byte) (r : Word) (p : Byte) {x : Nat} (hx : 0x2000 ≤ x) :
    (b.putFrame sp r p).peek x = b.peek x :=
  (Bus.peek_putStack _ _ _ hx).trans ((Bus.peek_putStack _ _ _ hx).trans (Bus.peek_putStack _ _ _ hx))

/-- A trap or interrupt entry through a vector in plain memory: the frame is pushed, and `PC` comes from the vector. -/
theorem State.enter_vector {s : State} (hc : s.closedMapper) (r : Word) (p : Byte) (f : Flags) {v : Word} (hv : Vector v) :
    s.enter r p f v = { s with
      toBus := s.toBus.putFrame s.cpu.sp r p
      cpu := { s.cpu with pc := wordOf (s.peek v.toNat) (s.peek (v + 1).toNat), sp := s.cpu.sp - 3, flags := f } } := by
  have hframe : (s.toBus.putFrame s.cpu.sp r p).closedMapper := hc
  simp only [State.enter_eq, Bus.read_plain hframe hv.plain, Bus.read_plain hframe hv.plain_next, Bus.peek_putFrame _ _ _ _ hv.high,
    Bus.peek_putFrame _ _ _ _ hv.high_next]

theorem Bus.stackByte_putFrame (b : Bus) (sp : Byte) (r : Word) (p : Byte) :
    (b.putFrame sp r p).stackByte (sp - 3 + 1) = p ∧ (b.putFrame sp r p).stackByte (sp - 3 + 2) = loByte r ∧
      (b.putFrame sp r p).stackByte (sp - 3 + 3) = hiByte r := by
  have h1 : sp - 3 + 1 = sp - 2 := by bv_omega
  have h2 : sp - 3 + 2 = sp - 1 := by bv_omega
  have h3 : sp - 3 + 3 = sp := by bv_omega
  have h12 : sp - 1 ≠ sp - 2 := by bv_omega
  have h02 : sp ≠ sp - 2 := by bv_omega
  have h01 : sp ≠ sp - 1 := by bv_omega
  simp only [h1, h2, h3, Bus.stackByte_putStack, if_true, if_neg h12, if_neg h02, if_neg h01, and_self]

/-- RTI gives back what the frame on the stack holds (R263, R513). -/
theorem State.returnFromInterrupt_frame {s : State} {b : Bus} {sp : Byte} {r : Word} {f : Flags}
    (hstack : ∀ x, s.stackByte x = (b.putFrame sp r f.toByte).stackByte x) (hsp : s.cpu.sp = sp - 3) :
    s.returnFromInterrupt.cpu = { s.cpu with pc := r, sp := sp, flags := f } := by
  obtain ⟨h1, h2, h3⟩ := b.stackByte_putFrame sp r f.toByte
  have hback : sp - 3 + 3 = sp := by bv_omega
  have hflags : flagsOfBits f.toByte = f := f.ofByte_toByte
  simp only [State.returnFromInterrupt_eq, hstack, hsp, h1, h2, h3, hflags, wordOf_loByte_hiByte]
  rw [hback]

/-! The dispatch. -/

/-- A Normal interrupt is serviced with `I` = 0 (R507, R512). -/
theorem State.dispatchIrq_normal {s : State} (hk : s.irq.kind = .normal) (hi : s.cpu.flags.i = false) :
    s.dispatchIrq = (s.enter s.cpu.pc s.cpu.flags.toByte s.cpu.flags.afterIrq (irqVector .normal)).clearIrq := by
  simp only [State.dispatchIrq, hk, hi, Bool.false_eq_true, if_false]

/-- An NMI is serviced with the enable bit set (R508). -/
theorem State.dispatchIrq_nmi {s : State} (hk : s.irq.kind = .nonMaskable) (he : s.ppu.f_nmiOnVblank = true) :
    s.dispatchIrq = (s.enter s.cpu.pc s.cpu.flags.toByte s.cpu.flags (irqVector .nonMaskable)).clearIrq := by
  simp only [State.dispatchIrq, hk, he, if_true]

/-- A gated NMI is dropped (R508). -/
theorem State.dispatchIrq_gated {s : State} (hk : s.irq.kind = .nonMaskable) (he : s.ppu.f_nmiOnVblank = false) :
    s.dispatchIrq = s.clearIrq := by
  simp only [State.dispatchIrq, hk, he, Bool.false_eq_true, if_false]

/-- A masked Normal interrupt is dropped (R507). -/
theorem State.dispatchIrq_masked {s : State} (hk : s.irq.kind = .normal) (hi : s.cpu.flags.i = true) : s.dispatchIrq = s.clearIrq := by
  simp only [State.dispatchIrq, hk, hi, if_true]

/-- A Reset loads `PC` (R509). -/
theorem State.dispatchIrq_reset {s : State} (hk : s.irq.kind = .reset) (hc : s.closedMapper) :
    s.dispatchIrq = (s.setPC (wordOf (s.peek 0xFFFC) (s.peek 0xFFFD))).clearIrq := by
  have hread : s.read16 (irqVector .reset) = (wordOf (s.peek 0xFFFC) (s.peek 0xFFFD), s) :=
    State.read16_plain hc (vector_irq .reset).plain (vector_irq .reset).plain_next
  simp only [State.dispatchIrq, hk, hread]

end Sys2Proof.Machine

namespace Sys2Proof

open Machine

/-- Settles O39: no push reaches the vector. -/
theorem normalDispatch : Obligations.NormalDispatch := by
  intro s hk hi hc
  rw [State.dispatchIrq_normal hk hi, State.enter_vector hc _ _ _ (vector_irq _)]
  rfl

/-- Settles O40, kind by kind. -/
theorem otherDispatches : Obligations.OtherDispatches := by
  intro s hc
  refine ⟨fun hk he => ?nmi, fun hk he => ?gated, fun hk hi => ?masked, fun hk => ?reset⟩
  case nmi =>
    rw [State.dispatchIrq_nmi hk he, State.enter_vector hc _ _ _ (vector_irq _)]
    rfl
  case gated =>
    rw [State.dispatchIrq_gated hk he]
    rfl
  case masked =>
    rw [State.dispatchIrq_masked hk hi]
    rfl
  case reset =>
    rw [State.dispatchIrq_reset hk hc]
    rfl

/-- Settles O41: the frame that the entry pushes is the one that RTI pulls. -/
theorem trapThenReturn : Obligations.TrapThenReturn := by
  intro s hc
  refine ⟨⟨_, _, rfl, rfl, ?brk⟩, fun hserved => ⟨_, rfl, ?irq⟩⟩
  case brk =>
    have hentry := State.enter_vector (s := s.advance .imp) hc (s.cpu.pc + 2) { s.cpu.flags with b := true }.toByte s.cpu.flags.afterBrk
      (vector_irq .normal)
    rw [State.implied_cpu, State.implied_eq]
    simp only [irqVector] at hentry
    rw [hentry]
    exact (State.returnFromInterrupt_frame (b := s.toBus) (sp := s.cpu.sp) (r := s.cpu.pc + 2) (f := { s.cpu.flags with b := true })
      (fun _ => rfl) rfl).trans rfl
  case irq =>
    obtain ⟨f, k, hdispatch⟩ : ∃ f k, s.dispatchIrq = (s.enter s.cpu.pc s.cpu.flags.toByte f (irqVector k)).clearIrq := by
      rcases hserved with ⟨hk, hi⟩ | ⟨hk, he⟩
      · exact ⟨_, _, State.dispatchIrq_normal hk hi⟩
      · exact ⟨_, _, State.dispatchIrq_nmi hk he⟩
    rw [State.implied_cpu, hdispatch, State.enter_vector hc _ _ _ (vector_irq k)]
    exact (State.returnFromInterrupt_frame (b := s.toBus) (sp := s.cpu.sp) (r := s.cpu.pc) (f := s.cpu.flags) (fun _ => rfl) rfl).trans rfl

end Sys2Proof
end

section
/-!
PROOFS. The step: the fetch of the instruction at `PC` (30_encoding.md section 1), the dispatch before it (decision D12), and the idle steps
(48_scheduler_session.md section 1).
-/

namespace Sys2Proof

open Machine

/-! The fetch. -/

theorem getD_map_range (g : Nat → Byte) (n k : Nat) : ((List.range n).map g).getD k 0 = if k < n then g k else 0 := by
  split
  · next h => simp [h]
  · next h => simp [h]

/-- What the table says of the lengths: at least 1, and 2 for SKB. -/
theorem opdata_lengths : ∀ op : Byte, ∀ d ∈ opdata op, 1 ≤ d.length ∧ (d.kind = .skb → d.length = 2) := by
  decide +kernel

theorem opcodeLength_pos (op : Byte) : 1 ≤ opcodeLength op := by
  unfold opcodeLength
  cases hd : opdata op with
  | none => exact Nat.le_refl 1
  | some d => exact (opdata_lengths op d hd).1

/-- A list of the bytes `f 0`, `f 1`, … that is one instruction and no more has the length of its opcode. -/
theorem decode_range {f : Nat → Byte} {n : Nat} {i : Instr} (h : decode ((List.range n).map f) = .ok (i, [])) :
    opcodeLength (f 0) = n ∧ i = decodeBytes (f 0) (if 2 ≤ n then f 1 else 0) (if 3 ≤ n then f 2 else 0) := by
  cases n with
  | zero => cases h
  | succ n =>
    have hle := opcodeLength_le (f 0)
    have hpos := opcodeLength_pos (f 0)
    rw [List.range_succ_eq_map, List.map_cons, List.map_map] at h
    simp only [decode, List.length_map, List.length_range, getD_map_range] at h
    split at h
    · cases h
    · next hlen =>
      simp only [Except.ok.injEq, Prod.mk.injEq, List.drop_eq_nil_iff, List.length_map, List.length_range] at h
      obtain ⟨hi, hdrop⟩ := h
      refine ⟨by omega, hi.symm.trans ?_⟩
      have h2 : 0 < n ↔ 2 ≤ n + 1 := by omega
      have h3 : 1 < n ↔ 3 ≤ n + 1 := by omega
      simp only [Function.comp_apply, h2, h3]

/-- The operand bytes of a fetch from plain addresses are the bytes there, as many as the opcode selects; SKB's byte is not read but is the same one
(R121, R124, R296). -/
theorem Machine.State.fetchOperands_plain {s : State} (hc : s.closedMapper) (op : Byte) {pc : Word}
    (h1 : 2 ≤ opcodeLength op → plainAddr (pc + 1)) (h2 : 3 ≤ opcodeLength op → plainAddr (pc + 2)) :
    s.fetchOperands op pc = (if 2 ≤ opcodeLength op then s.peek (pc + 1).toNat else 0,
      if 3 ≤ opcodeLength op then s.peek (pc + 2).toNat else 0, s) := by
  have hle := opcodeLength_le op
  unfold State.fetchOperands
  cases hd : opdata op with
  | none =>
    have hlen : opcodeLength op = 1 := by rw [opcodeLength, hd]; rfl
    simp only [hlen]
    rfl
  | some d =>
    have hlen : opcodeLength op = d.length := by rw [opcodeLength, hd]; rfl
    obtain ⟨hpos, hskb⟩ := opdata_lengths op d hd
    simp only [hlen] at *
    by_cases hone : d.length = 1
    · simp only [hone, if_true]
      rfl
    have htwo : 2 ≤ d.length := by omega
    have hread := Bus.read_plain hc (h1 htwo)
    rw [if_neg hone, if_pos htwo]
    by_cases hk : d.kind = .skb
    · rw [if_pos hk, if_neg (by rw [hskb hk]; decide)]
    rw [if_neg hk]
    by_cases hlast : d.length = 2
    · rw [if_pos hlast, if_neg (by omega), State.read, hread]
    · have hread2 := Bus.read_plain hc (h2 (by omega))
      rw [if_neg hlast, if_pos (by omega)]
      simp only [State.read, hread, hread2]

/-- The fetch from plain addresses gives the instruction that the bytes there decode to, and changes nothing. -/
theorem Machine.State.fetch_plain {s : State} (hc : s.closedMapper) {n : Nat} {i : Instr}
    (hplain : ∀ k < n, plainAddr (s.cpu.pc + BitVec.ofNat 16 k))
    (h : decode ((List.range n).map fun k => s.peek (s.cpu.pc + BitVec.ofNat 16 k).toNat) = .ok (i, [])) : s.fetch = (i, s) := by
  obtain ⟨hlen, hi⟩ := decode_range h
  have hpos : 0 < n := hlen ▸ opcodeLength_pos _
  have hpc : s.cpu.pc + BitVec.ofNat 16 0 = s.cpu.pc := by bv_omega
  rw [hpc] at hlen hi
  have hop := Bus.read_plain hc (hpc ▸ hplain 0 hpos)
  have hrest := State.fetchOperands_plain hc (s.peek s.cpu.pc.toNat) (pc := s.cpu.pc) (fun h2 => hplain 1 (by omega))
    (fun h3 => hplain 2 (by omega))
  rw [hlen] at hrest
  simp only [State.fetch, State.read, hop, hrest, hi]
  rfl

/-! The dispatch. -/

/-- A dispatch idles nothing. -/
theorem Machine.State.dispatchIrq_halts {s : State} (hc : s.closedMapper) :
    s.dispatchIrq.halted = s.halted ∧ s.dispatchIrq.haltCycles = s.haltCycles := by
  cases hk : s.irq.kind with
  | normal =>
    cases hi : s.cpu.flags.i with
    | false => rw [normalDispatch s hk hi hc]; exact ⟨rfl, rfl⟩
    | true => rw [State.dispatchIrq_masked hk hi]; exact ⟨rfl, rfl⟩
  | nonMaskable =>
    cases he : s.ppu.f_nmiOnVblank with
    | false => rw [State.dispatchIrq_gated hk he]; exact ⟨rfl, rfl⟩
    | true => rw [(otherDispatches s hc).1 hk he]; exact ⟨rfl, rfl⟩
  | reset => rw [State.dispatchIrq_reset hk hc]; exact ⟨rfl, rfl⟩

/-! The statements. -/

/-- A step of a machine whose CPU runs (R470). -/
theorem Machine.step_of_cpuRuns {s : State} (h : s.cpuRuns) : ∃ t, s.cpuStep = .next t ∧ step s = .next t.afterCpu := by
  obtain ⟨hok, hframe, hhalted, hcycles⟩ := h
  obtain ⟨t, ht, -⟩ := s.keeps_cpuStep
  refine ⟨t, ht, ?_⟩
  rw [step_eq, if_pos hok, if_pos hframe, State.schedulerStep, if_neg (by simp [hhalted, hcycles]), ht]

/-- Settles O42: the fetch from plain addresses is the decoder on the bytes there. -/
theorem stepRunsDecoded : Obligations.StepRunsDecoded := by
  intro s i n hruns hpending hc hplain hdecode
  obtain ⟨t, ht, hstep⟩ := step_of_cpuRuns hruns
  refine ⟨t, ?_, hstep⟩
  have hnone : s.dispatchIfPending = s := if_neg (by simp [hpending])
  rw [State.cpuStep, hnone, State.fetch_plain hc hplain hdecode] at ht
  exact ht

/-- Settles O43: the dispatched machine runs too and has nothing pending. -/
theorem stepDispatchesFirst : Obligations.StepDispatchesFirst := by
  intro s hruns hpending hc
  obtain ⟨⟨hcfg, -⟩, hframe, -⟩ := s.keeps_dispatchIrq
  obtain ⟨hhalted, hcycles⟩ := State.dispatchIrq_halts hc
  have hruns' : s.dispatchIrq.cpuRuns := by
    rw [State.cpuRuns, hcfg, hframe, hhalted, hcycles]
    exact hruns
  obtain ⟨t, ht, hstep⟩ := step_of_cpuRuns hruns
  obtain ⟨u, hu, hstep'⟩ := step_of_cpuRuns hruns'
  have hfirst : s.dispatchIfPending = s.dispatchIrq := if_pos hpending
  have hagain : s.dispatchIrq.dispatchIfPending = s.dispatchIrq := if_neg (by simp [State.dispatchIrq])
  have hcpu : s.cpuStep = s.dispatchIrq.cpuStep := by rw [State.cpuStep, State.cpuStep, hfirst, hagain]
  cases ht.symm.trans (hcpu.trans hu)
  exact hstep.trans hstep'.symm

/-- Settles O44: the two branches of the idle step are the two values of the minimum. -/
theorem idleSteps : Obligations.IdleSteps := by
  intro s hok hframe
  refine ⟨fun hhalted hcycles => ?idle, fun hhalted => ⟨_, ?halted, rfl, ?_, ?_⟩⟩
  case idle =>
    intro c
    have hidle : s.idle = { s with haltCycles := s.haltCycles - c, stepCycles := c } := by
      rw [State.idle, if_neg (by simp [hhalted])]
      split
      · next hlt => rw [show c = s.cfg.haltChunk from Nat.min_eq_right hlt.le]
      · next hle => rw [show c = s.haltCycles from Nat.min_eq_left (not_lt.1 hle), Nat.sub_self]
    rw [step_eq, if_pos hok, if_pos hframe, State.schedulerStep, if_pos (.inr hcycles), hidle]
  case halted =>
    rw [step_eq, if_pos hok, if_pos hframe, State.schedulerStep, if_pos (.inl hhalted), State.idle, if_pos hhalted]
  · exact hhalted
  · rfl

end Sys2Proof
end

section
/-!
PROOFS. The bus and the devices (20_memory.md; 45_ppu.md sections 2 to 4; 46_apu.md section 2; 47_mapper_cartridge.md sections 3 and 4).
-/

namespace Sys2Proof

open Machine

/-! Memory and the ports. -/

/-- Settles O45: both addresses of a mirror name one byte, and a plain store touches its own byte. -/
theorem readAfterWrite : Obligations.ReadAfterWrite := by
  intro b a v
  refine ⟨fun a' ha ha' hmod => ⟨?mirror, ?same⟩, fun hc hplain hm => ⟨?back, fun x hx hout => ?out⟩⟩
  case mirror => rw [b.write_ram v ha, Bus.read_ram _ ha', Bus.memAt_setMem, hmod, if_pos rfl]
  case same => rw [b.read_ram ha, b.read_ram ha', hmod]
  all_goals have hc' : (b.write a v).closedMapper := (b.keeps_write a v).closed hc
  case back => rw [Bus.read_plain hc' hplain, Bus.peek_write_self hc v hplain hm]
  case out => rw [Bus.read_plain hc' hx, Bus.read_plain hc hx, Bus.peek_write hc a v hout]

/-- Settles O47: with a mapper type of the spec the latch access of the read does nothing. -/
theorem vramPortRead : Obligations.VramPortRead := by
  intro b a hc hlo hhi hport
  have hlatch (q : Ppu) (x : Nat) : ({ b with ppu := q } : Bus).latchPattern x = { b with ppu := q } :=
    Bus.latchPattern_closed (b := { b with ppu := q }) hc x
  intro p next reg
  rw [b.read_ppuPort hlo hhi, hport]
  simp only [Bus.readPort, Ppu.readDataByte, Nat.reduceEqDiff, if_false, if_true, hlatch]
  split
  · rfl
  · rfl

/-- Settles O50: the serial byte of the step, by definition. -/
theorem controllerPort : Obligations.ControllerPort := fun _ => rfl

/-! The palette. -/

theorem Machine.Ppu.vramAt_setVram (p : Ppu) (x : Nat) (v : Byte) (y : Nat) :
    (p.setVram x v).vramAt y = if y = x % 0x8000 then v else p.vramAt y := Cells.get_set ..

/-- The mirror table leaves the palette in place, whatever the mode (R340). -/
theorem mirrorAddr_palette (mode : Option Mirroring) {k : Nat} (hk : k < 0x20) : mirrorAddr mode (0x3F00 + k) = 0x3F00 + k := by
  unfold mirrorAddr foldAddr
  dsimp only
  split
  · omega
  · rw [if_neg (by omega), if_pos (by omega)]
    omega

theorem Machine.Ppu.vramWrite_mirroring (p : Ppu) (a : Nat) (v : Byte) : (p.vramWrite a v).currentMirroring = p.currentMirroring := by
  unfold Ppu.vramWrite
  dsimp only
  split <;> rfl

/-- Settles O48: a transparent slot is written at both addresses of its pair, another one at its own. -/
theorem palettePairs : Obligations.PalettePairs := by
  intro p a k v ha hk
  rw [Ppu.vramRead, Ppu.vramRead, Ppu.vramWrite_mirroring, mirrorAddr_palette _ hk, Ppu.vramWrite, mirrorAddr_palette _ ha]
  split
  · next htransparent =>
    have hpair : (0x3F00 + k = (0x3F10 + (0x3F00 + a) % 0x10) % 0x8000 ∨ 0x3F00 + k = (0x3F00 + (0x3F00 + a) % 0x10) % 0x8000) ↔
        (k = a ∨ (a % 4 = 0 ∧ k % 16 = a % 16)) := by omega
    rw [Ppu.vramAt_setVram, Ppu.vramAt_setVram, ← ite_or]
    simp only [hpair]
  · next hopaque =>
    have hown : 0x3F00 + k = (0x3F00 + a) % 0x8000 ↔ (k = a ∨ (a % 4 = 0 ∧ k % 16 = a % 16)) := by omega
    rw [Ppu.vramAt_setVram]
    simp only [hown]

/-! Sprite DMA. -/

theorem Machine.Ppu.spriteAt_setSprite (p : Ppu) (i v : Byte) (j : Byte) :
    (p.setSprite i v).spriteAt j.toNat = if j = i then v else p.spriteAt j.toNat := by
  rw [Ppu.setSprite, Ppu.spriteAt, Cells.get_set]
  simp only [BitVec.toNat_inj]
  rfl

/-- The copy of the DMA: the bytes of a list written one after the other, from `start` bytes behind the sprite address on (R338). -/
abbrev Machine.Ppu.dmaCopy (p : Ppu) (bytes : List Byte) (start : Nat) : Ppu :=
  (bytes.zipIdx start).foldl (fun p e => p.setSprite (p.sramAddress + BitVec.ofNat 8 e.2) e.1) p

theorem Machine.Ppu.dmaCopy_address (bytes : List Byte) : ∀ (p : Ppu) (start : Nat), (p.dmaCopy bytes start).sramAddress = p.sramAddress := by
  induction bytes with
  | nil => intro p start; rfl
  | cons b bytes ih => intro p start; exact ih _ (start + 1)

/-- Up to 256 bytes do not run into each other. -/
theorem Machine.Ppu.spriteAt_dmaCopy (bytes : List Byte) : ∀ (p : Ppu) (start j : Nat), start + bytes.length ≤ 256 → j < 256 →
    let place := (p.sramAddress + BitVec.ofNat 8 j).toNat
    (p.dmaCopy bytes start).spriteAt place = if start ≤ j then bytes.getD (j - start) (p.spriteAt place) else p.spriteAt place := by
  induction bytes with
  | nil => intro p start j _ _ place; rw [List.getD_nil, ite_self]; rfl
  | cons b bytes ih =>
    intro p start j hlen hj
    rw [List.length_cons] at hlen
    have hnext := ih (p.setSprite (p.sramAddress + BitVec.ofNat 8 start) b) (start + 1) j (by omega) hj
    have hplace : p.sramAddress + BitVec.ofNat 8 j = p.sramAddress + BitVec.ofNat 8 start ↔ j = start := by
      rw [BitVec.add_right_inj, ← BitVec.toNat_inj, BitVec.toNat_ofNat, BitVec.toNat_ofNat, Nat.mod_eq_of_lt hj,
        Nat.mod_eq_of_lt (show start < 256 by omega)]
    have hset := Ppu.spriteAt_setSprite p (p.sramAddress + BitVec.ofNat 8 start) b (p.sramAddress + BitVec.ofNat 8 j)
    simp only [hplace] at hset
    refine hnext.trans ?_
    rcases Nat.lt_trichotomy j start with hlt | rfl | hgt
    · rw [if_neg (by omega), if_neg (by omega)]
      exact hset.trans (if_neg (by omega))
    · rw [if_neg (by omega), if_pos (Nat.le_refl j), Nat.sub_self]
      exact hset.trans (if_pos rfl)
    · obtain ⟨d, rfl⟩ : ∃ d, j = start + 1 + d := ⟨j - (start + 1), by omega⟩
      have hkept := hset.trans (if_neg (by omega))
      have hd : start + 1 + d - (start + 1) = d := by omega
      have hd' : start + 1 + d - start = d + 1 := by omega
      rw [if_pos (by omega), if_pos (by omega), hd, hd', List.getD_cons_succ]
      exact congrArg _ hkept

/-- After the copy the DMA checks sprite 0, which writes neither sprite RAM nor the address. -/
theorem Machine.Ppu.spriteDma_copy (p : Ppu) (bytes : List Byte) :
    (p.spriteDma bytes).spriteMem = (p.dmaCopy bytes 0).spriteMem ∧ (p.spriteDma bytes).sramAddress = p.sramAddress :=
  ⟨rfl, p.dmaCopy_address bytes 0⟩

/-- Settles O49: the copy puts byte `i` of the page `i` places behind the sprite address. -/
theorem spriteDma : Obligations.SpriteDma := by
  intro b v
  have hwrite : b.write 0x4014 v = b.spriteDma v := rfl
  rw [hwrite]
  obtain ⟨hmem, haddress⟩ := b.ppu.spriteDma_copy (b.dmaBytes v)
  refine ⟨fun i => ?sprites, rfl, haddress, fun x => rfl⟩
  case sprites =>
    have hcopy := Ppu.spriteAt_dmaCopy (b.dmaBytes v) b.ppu 0 i.toNat (by simp [Bus.dmaBytes]) i.isLt
    simp only [BitVec.ofNat_toNat, BitVec.setWidth_eq, Nat.zero_le, if_true, Nat.sub_zero, Ppu.spriteAt, ← hmem] at hcopy
    refine hcopy.trans ?_
    simp only [Bus.dmaBytes, List.getD_eq_getElem?_getD, List.getElem?_map, List.getElem?_range i.isLt, Option.map_some, Option.getD_some]

end Sys2Proof
end

section
/-!
PROOFS. The APU's status port (46_apu.md sections 2 and 5), the mapper's banks and scanline counter (47_mapper_cartridge.md sections 3 and 4), and the end of
a frame (45_ppu.md section 2).
-/

namespace Sys2Proof

open Machine

/-! The status port of the APU. -/

/-- The bits of the status byte (R378). -/
theorem Machine.Apu.status_bits (a : Apu) : ∀ k, a.status.getLsbD k =
    if k = 0 then a.pulse1.isEnabled && decide (0 < a.pulse1.lengthCounter)
    else if k = 1 then a.pulse2.isEnabled && decide (0 < a.pulse2.lengthCounter)
    else if k = 2 then a.triangle.isEnabled && decide (0 < a.triangle.lengthCounter)
    else if k = 3 then a.noise.isEnabled && decide (0 < a.noise.lengthCounter)
    else if k = 4 then a.dmc.isEnabled && decide (0 < a.dmc.playLengthCounter)
    else if k = 6 then a.frameIrqActive && a.frameIrqEnabled
    else if k = 7 then a.dmc.irqGenerated
    else false := by
  intro k
  simp only [Apu.status, BitVec.getLsbD_append]
  match k with
  | 0 | 1 | 2 | 3 | 4 | 5 | 6 | 7 => simp
  | k + 8 => simp

/-- A read of 0x4015 is a read of the status (R378). -/
theorem Machine.Bus.read_apuStatus (b : Bus) : b.read 0x4015 = (b.apu.status, { b with apu := b.apu.readStatus.2 }) := rfl

/-- A write to 0x4015 enables or disables the channels (R377). -/
theorem Machine.Bus.write_apuEnable (b : Bus) (v : Byte) : b.write 0x4015 v = { b with apu := b.apu.writeEnable v } := rfl

/-- Writing 0 leaves only the frame interrupt's bit of the status (R377, R378). -/
theorem Machine.Apu.status_stopped (a : Apu) : (a.writeEnable 0).status &&& 0x9F = 0 := by
  have hpulse1 : (a.writeEnable 0).pulse1.isEnabled = false := rfl
  have hpulse2 : (a.writeEnable 0).pulse2.isEnabled = false := rfl
  have htriangle : (a.writeEnable 0).triangle.isEnabled = false := rfl
  have hnoise : (a.writeEnable 0).noise.isEnabled = false := rfl
  have hdmc : (a.writeEnable 0).dmc.isEnabled = false := rfl
  have hirq : (a.writeEnable 0).dmc.irqGenerated = false := rfl
  apply BitVec.eq_of_getLsbD_eq
  intro k hk
  rw [BitVec.getLsbD_and, Apu.status_bits, hpulse1, hpulse2, htriangle, hnoise, hdmc, hirq]
  interval_cases k <;> simp

/-- Settles O52: the status bit by bit, and the channels after `SetEnabled(false)`. -/
theorem apuStatus : Obligations.ApuStatus := by
  intro b a r w
  have hbits : r.1.getLsbD = a.status.getLsbD := rfl
  refine ⟨?bits, rfl, b.apu.status_stopped, ⟨rfl, rfl, rfl, rfl, rfl⟩, ⟨rfl, rfl, rfl, rfl, rfl⟩, ⟨rfl, rfl, rfl⟩, rfl, rfl, rfl⟩
  simp only [hbits, Apu.status_bits]
  exact ⟨rfl, rfl, rfl, rfl, rfl, rfl, rfl, rfl⟩

/-! The banks of the mapper (R438, R439, R442). -/

theorem Machine.Cart.romBank_add (c : Cart) (n k : Nat) : c.romBank (n * c.prgBanks + k) = c.romBank k := by
  rw [Cart.romBank, Nat.mul_add_mod_self_right, Cart.romBank]

theorem Machine.Cart.vromBank_add (c : Cart) (k : Nat) : c.vromBank (c.chrBanks + k) = c.vromBank k := by
  rw [Cart.vromBank, Nat.add_mod_left, Cart.vromBank]

/-- A bank number past the last one, for a bus with the cartridge of `c`. -/
theorem Machine.Bus.loadRomBank_add {b : Bus} {c : Cart} (hc : b.cart = c) (n k a : Nat) :
    b.loadRomBank (n * c.prgBanks + k) a = b.loadRomBank k a := by
  rw [Bus.loadRomBank, hc, Cart.romBank_add, Bus.loadRomBank, hc]

theorem Machine.Bus.load32kRomBank_add (b : Bus) (k a : Nat) : b.load32kRomBank (b.cart.prgBanks + k) a = b.load32kRomBank k a := by
  have hcart : (b.loadRomBank (2 * k) a).cart = b.cart := (b.keeps_copyProgram ..).2.1
  rw [Bus.load32kRomBank, Nat.mul_add, Nat.add_assoc, Bus.loadRomBank_add rfl, Bus.loadRomBank_add hcart, Bus.load32kRomBank]

theorem Machine.Bus.load8kRomBank_add (b : Bus) (k a : Nat) : b.load8kRomBank (2 * b.cart.prgBanks + k) a = b.load8kRomBank k a := by
  have hdiv : (2 * b.cart.prgBanks + k) / 2 = 1 * b.cart.prgBanks + k / 2 := by omega
  have hmod : (2 * b.cart.prgBanks + k) % 2 = k % 2 := by omega
  rw [Bus.load8kRomBank, hdiv, hmod, Cart.romBank_add, Bus.load8kRomBank]

/-- A pattern slice past the last one: `per` of them make a bank. -/
theorem Machine.Bus.loadPattern_add {b : Bus} {c : Cart} (hc : b.cart = c) {size : Nat} (per : Nat) (hper : 0x1000 / size = per)
    (hpos : 0 < per) (k a : Nat) : b.loadPattern size (per * c.chrBanks + k) a = b.loadPattern size k a := by
  have hdiv : (per * c.chrBanks + k) / per = c.chrBanks + k / per := Nat.mul_add_div hpos ..
  have hmod : (per * c.chrBanks + k) % per = k % per := Nat.mul_add_mod_self_left ..
  simp only [Bus.loadPattern, hper, hdiv, hmod, hc, Cart.vromBank_add]

theorem Machine.Bus.loadVromBank_add {b : Bus} {c : Cart} (hc : b.cart = c) (k a : Nat) :
    b.loadVromBank (c.chrBanks + k) a = b.loadVromBank k a := by
  have h := Bus.loadPattern_add hc 1 (size := 0x1000) rfl Nat.one_pos k a
  rwa [Nat.one_mul] at h

theorem Machine.Bus.load8kVromBank_add (b : Bus) (k a : Nat) : b.load8kVromBank (b.cart.chrBanks + k) a = b.load8kVromBank k a := by
  have hcart : (b.triggerRendering.loadVromBank k a).cart = b.cart := (b.triggerRendering.keeps_loadPattern ..).2.1
  rw [Bus.load8kVromBank, Nat.add_assoc, Bus.loadVromBank_add (b := b.triggerRendering) (c := b.cart) rfl,
    Bus.loadVromBank_add hcart, Bus.load8kVromBank]

/-! The scanline counter (R444). -/

/-- A type of the spec other than 4 has no scanline counter, and no open kind. -/
theorem openKind_specified (cfg : Config) {t : Nat} (ht : t ∈ [0, 2, 3, 4, 7]) : openKind cfg t = none :=
  if_pos (decide_eq_true ht)

/-- Settles O53: each primitive reads its bank modulo the count. -/
theorem mapperBanksAndCounter : Obligations.MapperBanksAndCounter := by
  intro b
  refine ⟨fun k a => ⟨?rom, b.load32kRomBank_add k a, b.load8kRomBank_add k a, Bus.loadVromBank_add rfl k a, b.load8kVromBank_add k a,
    Bus.loadPattern_add rfl 2 rfl (by decide) k a, Bus.loadPattern_add rfl 4 rfl (by decide) k a⟩, fun ht he hc => ?counts,
    fun ht he hc => ?reloads, ?nothing⟩
  case rom =>
    have h := Bus.loadRomBank_add (b := b) rfl 1 k a
    rwa [Nat.one_mul] at h
  case counts => rw [Bus.clockIrqCounter, if_pos ⟨.inl ht, he⟩, if_neg (by omega)]
  case reloads => rw [Bus.clockIrqCounter, if_pos ⟨.inl ht, he⟩, if_pos (by omega)]
  case nothing =>
    rintro (ht | ⟨ht, he⟩)
    · have hopen : b.openKind = none := openKind_specified b.cfg ((by decide : [0, 2, 3, 7] ⊆ [0, 2, 3, 4, 7]) ht)
      rw [Bus.clockIrqCounter, if_neg]
      rintro ⟨h4 | hkind, -⟩
      · rw [h4] at ht
        revert ht
        decide
      · rw [hopen] at hkind
        cases hkind
    · exact if_neg (by simp [he])

/-! The end of a frame. -/

/-- The countdown is over on the dot that begins with the counter at 1 (R314). -/
theorem Machine.Ppu.dotCountdown_done (cfg : Config) (p : Ppu) : (p.dotCountdown cfg).2 = true ↔ p.requestEndFrame = true ∧ p.nmiCounter = 1 := by
  unfold Ppu.dotCountdown
  split
  · next hr =>
    dsimp only
    split
    · next hz => exact ⟨fun _ => ⟨hr, by omega⟩, fun _ => rfl⟩
    · next hnz => exact ⟨nofun, fun h => absurd h.2 (by omega)⟩
  · next hr => exact ⟨nofun, fun h => absurd h.1 hr⟩

/-- The sprite-0 part of a dot writes the status alone. -/
theorem Machine.Ppu.dotSprite0_counter (p : Ppu) :
    p.dotSprite0.requestEndFrame = p.requestEndFrame ∧ p.dotSprite0.nmiCounter = p.nmiCounter := by
  unfold Ppu.dotSprite0
  split
  · exact ⟨rfl, rfl⟩
  · exact ⟨rfl, rfl⟩

/-- What a dot reports is its countdown. -/
theorem Machine.Ppu.dot_done (cfg : Config) (p : Ppu) : (p.dot cfg).frameDone = (p.dotSprite0.dotCountdown cfg).2 ∧
    (p.dot cfg).picture = (p.dotSprite0.dotCountdown cfg).1.buffer := by
  unfold Ppu.dot
  dsimp only
  split
  · exact ⟨rfl, rfl⟩
  · exact ⟨rfl, rfl⟩

/-- The mapper's clock tells the host nothing, and a pending request stays (R505). -/
theorem Machine.Bus.clockIrqCounter_pending {b : Bus} (hp : b.irq.pending = true) :
    b.clockIrqCounter.events = b.events ∧ b.clockIrqCounter.irq = b.irq := by
  have hrequest : b.irq.request .normal = b.irq := by simp [Irq.request, hp]
  unfold Bus.clockIrqCounter
  split
  · split
    · exact ⟨rfl, hrequest⟩
    · exact ⟨rfl, rfl⟩
  · exact ⟨rfl, rfl⟩

/-- Settles O54: the mapper's clock at the end of the dot cannot replace the request for the NMI. -/
theorem frameEnd : Obligations.FrameEnd := by
  intro b
  obtain ⟨hdone, hpicture⟩ := b.ppu.dot_done b.cfg
  obtain ⟨hrequest, hcounter⟩ := b.ppu.dotSprite0_counter
  have hiff : b.dot.2 = true ↔ b.ppu.requestEndFrame = true ∧ b.ppu.nmiCounter = 1 := by
    rw [Bus.dot, hdone, Ppu.dotCountdown_done, hrequest, hcounter]
  refine ⟨hiff, fun hd => ?_⟩
  have hframe : (b.ppu.dot b.cfg).frameDone = true := hd
  have hirq : b.irq.request .nonMaskable = { pending := true, kind := .nonMaskable } := by rw [Irq.request_eq_ite, if_neg (by simp)]
  unfold Bus.dot
  rw [← hpicture]
  simp only [hframe, if_true, Bus.requestIrq, hirq]
  split
  · refine Bus.clockIrqCounter_pending ?_
    rfl
  · exact ⟨rfl, rfl⟩

end Sys2Proof
end

section
/-!
PROOFS. The load of a cartridge (48_scheduler_session.md section 2, 47_mapper_cartridge.md sections 2 and 3) and the machine right after reset
(10_state.md, 70_reset_and_hazards.md section 1).
-/

namespace Sys2Proof.Machine

/-! What the mapper's part of a load can reach, for an open kind too. -/

/-- `b'` is `b` with other stores, another picture unit and other mapper registers, and nothing else changed. -/
def Bus.SameButMapper (b b' : Bus) : Prop := b' = { b with mem := b'.mem, ppu := b'.ppu, mapper := b'.mapper }

theorem Bus.SameButMapper.refl (b : Bus) : b.SameButMapper b := rfl

theorem Bus.SameButMapper.trans {b c d : Bus} (h : b.SameButMapper c) (h' : c.SameButMapper d) : b.SameButMapper d := by
  unfold Bus.SameButMapper at *
  rw [h'.trans (by rw [h])]

theorem Bus.SameButMapper.ite {c : Prop} [Decidable c] {b x y : Bus} (hx : b.SameButMapper x) (hy : b.SameButMapper y) :
    b.SameButMapper (if c then x else y) := by
  split
  · exact hx
  · exact hy

theorem Bus.sameButMapper_copyProgram (b : Bus) (a : Nat) (bytes : List Byte) : b.SameButMapper (b.copyProgram a bytes) :=
  .ite rfl (.refl b)

theorem Bus.sameButMapper_loadRomBank (b : Bus) (k a : Nat) : b.SameButMapper (b.loadRomBank k a) := b.sameButMapper_copyProgram ..

theorem Bus.sameButMapper_load32kRomBank (b : Bus) (k a : Nat) : b.SameButMapper (b.load32kRomBank k a) := by
  unfold Bus.load32kRomBank
  exact (b.sameButMapper_loadRomBank ..).trans (Bus.sameButMapper_loadRomBank ..)

theorem Bus.sameButMapper_loadPattern (b : Bus) (size k a : Nat) : b.SameButMapper (b.loadPattern size k a) :=
  .ite (.refl b) (.ite rfl rfl)

theorem Bus.sameButMapper_load8kVromBank (b : Bus) (k a : Nat) : b.SameButMapper (b.load8kVromBank k a) :=
  have htrigger : b.SameButMapper b.triggerRendering := rfl
  .ite (.refl b) ((htrigger.trans (Bus.sameButMapper_loadPattern ..)).trans (Bus.sameButMapper_loadPattern ..))

theorem Bus.sameButMapper_runAction (addr value : Nat) (act : MapAction) : ∀ b : Bus, b.SameButMapper (runAction addr value act b) := by
  induction act with
  | loadRomBank | load8kRomBank => exact fun b => b.sameButMapper_copyProgram ..
  | load32kRomBank => exact fun b => b.sameButMapper_load32kRomBank ..
  | loadVromBank | load2kVromBank | load1kVromBank => exact fun b => b.sameButMapper_loadPattern ..
  | load8kVromBank => exact fun b => b.sameButMapper_load8kVromBank ..
  | setMirroring | setReg | setIrqCounter | setIrqLatch | setIrqEnable => exact fun b => rfl
  | onlyIf c act ih => exact fun b => .ite (.refl b) (ih b)

theorem Bus.sameButMapper_runActions (acts : List MapAction) (addr value : Nat) (b : Bus) :
    b.SameButMapper (runActions acts addr value b) :=
  foldl_keeps (P := b.SameButMapper) (fun _ act h => h.trans (Bus.sameButMapper_runAction addr value act _)) acts b (.refl b)

theorem Bus.sameButMapper_loadInitialPrg (b : Bus) : b.SameButMapper b.loadInitialPrg := by
  have two (k a k' a' : Nat) : b.SameButMapper ((b.loadRomBank k a).loadRomBank k' a') :=
    (b.sameButMapper_copyProgram ..).trans (Bus.sameButMapper_copyProgram ..)
  have slice (d : Bus) (k a : Nat) : d.SameButMapper (d.load8kRomBank k a) := d.sameButMapper_copyProgram ..
  unfold Bus.loadInitialPrg
  refine .ite (two ..) (.ite ((((slice ..).trans (slice ..)).trans (slice ..)).trans (slice ..)) ?_)
  split
  · exact b.sameButMapper_runActions ..
  · exact .ite (two ..) (two ..)

theorem Bus.sameButMapper_loadInitialChr (b : Bus) : b.SameButMapper b.loadInitialChr := by
  have two (k a k' a' : Nat) : b.SameButMapper ((b.loadVromBank k a).loadVromBank k' a') :=
    (b.sameButMapper_loadPattern ..).trans (Bus.sameButMapper_loadPattern ..)
  unfold Bus.loadInitialChr
  split
  · exact b.sameButMapper_runActions ..
  · exact .ite (.refl b) (.ite (two ..) (two ..))

theorem Bus.sameButMapper_loadBatteryRam (b : Bus) (image : Option (List Byte)) : b.SameButMapper (b.loadBatteryRam image) := by
  unfold Bus.loadBatteryRam
  split
  · exact .refl b
  · exact .ite rfl (.refl b)

/-- The banks and the battery RAM of a load, without the request that ends it (R440). -/
abbrev Bus.loadBanks (b : Bus) (image : Option (List Byte)) : Bus := b.loadInitialPrg.loadInitialChr.loadBatteryRam image

theorem Bus.sameButMapper_loadBanks (b : Bus) (image : Option (List Byte)) : b.SameButMapper (b.loadBanks image) :=
  (b.sameButMapper_loadInitialPrg.trans (Bus.sameButMapper_loadInitialChr _)).trans (Bus.sameButMapper_loadBatteryRam ..)

/-! The stores after the banks of a load, with a mapper type of the spec. -/

theorem Bus.copyProgram_ppu (b : Bus) (a : Nat) (bytes : List Byte) : (b.copyProgram a bytes).ppu = b.ppu := by
  unfold Bus.copyProgram
  split <;> rfl

theorem Bus.loadBatteryRam_ppu (b : Bus) (image : Option (List Byte)) : (b.loadBatteryRam image).ppu = b.ppu := by
  unfold Bus.loadBatteryRam
  split
  · rfl
  · split <;> rfl

section
variable {b : Bus} (hc : b.closedMapper) (image : Option (List Byte))
include hc

theorem Bus.loadInitialPrg_ppu : b.loadInitialPrg.ppu = b.ppu := by
  unfold Bus.loadInitialPrg
  rw [hc, Option.bind_none]
  simp only [Bus.loadRomBank, Bus.load8kRomBank]
  repeat' split
  all_goals simp only [Bus.copyProgram_ppu]

theorem Bus.sameButStores_loadBanks (hs : b.ppu.scanline < 21) : b.SameButStores (b.loadBanks image) := by
  have hprg := b.sameButStores_loadInitialPrg hc
  have hchr := Bus.sameButStores_loadInitialChr b.loadInitialPrg (b.keeps_loadInitialPrg.closed hc) (hprg.scanline ▸ hs)
  exact (hprg.trans hchr).trans (Bus.sameButStores_loadBatteryRam ..)

omit hc in
theorem Bus.cart_loadPatterns : b.loadInitialPrg.loadInitialChr.cart = b.cart :=
  (Bus.keeps_loadInitialChr _).2.1.trans b.keeps_loadInitialPrg.2.1

/-- The pattern banks leave `mem`. -/
theorem Bus.memAt_loadPatterns (x : Nat) : b.loadInitialPrg.loadInitialChr.memAt x = b.loadInitialPrg.memAt x := by
  unfold Bus.memAt
  rw [(Bus.keeps_loadInitialChr _).1, Bus.loadInitialChr_mem _ (b.keeps_loadInitialPrg.closed hc)]

/-- Outside the battery RAM the memory is what the program banks leave. -/
theorem Bus.memAt_loadBanks {x : Nat} (hx : ¬(0x6000 ≤ x ∧ x < 0x8000)) : (b.loadBanks image).memAt x = b.loadInitialPrg.memAt x := by
  rw [Bus.loadBanks, Bus.memAt_loadBatteryRam, ← Bus.memAt_loadPatterns hc]
  split
  · exact if_neg hx
  · rfl

/-- The battery RAM is the saved image where there is one. -/
theorem Bus.memAt_loadBanks_battery (h : b.cart.WellSized) {j : Nat} (hj : j < 0x2000) (hzero : b.memAt (0x6000 + j) = 0) :
    (b.loadBanks image).memAt (0x6000 + j) = ((b.cart.savedRam image).getD []).getD j 0 := by
  rw [Bus.loadBanks, Bus.memAt_loadBatteryRam, Bus.cart_loadPatterns]
  cases b.cart.savedRam image with
  | some l =>
    dsimp only
    rw [if_pos (by omega), Nat.add_sub_cancel_left, Option.getD_some]
  | none =>
    dsimp only
    rw [Bus.memAt_loadPatterns hc, (b.memAt_loadInitialPrg hc h).1 _ (by omega), hzero]
    rfl

/-- The pattern window over a `vram` of zeros: banks 0 and 1, the only bank twice, or zeros without one (R440, R442). -/
theorem Bus.vramAt_loadBanks (h : b.cart.WellSized) (hs : b.ppu.scanline < 21) (hzero : ∀ x, b.ppu.vramAt x = 0) :
    (∀ x, 0x2000 ≤ x → (b.loadBanks image).ppu.vramAt x = 0) ∧
    ∀ j < 0x1000, (b.loadBanks image).ppu.vramAt j = (b.cart.vrom.getD 0 []).getD j 0 ∧
      (b.loadBanks image).ppu.vramAt (0x1000 + j) = (b.cart.vrom.getD (if 1 < b.cart.chrBanks then 1 else 0) []).getD j 0 := by
  have hc' := b.keeps_loadInitialPrg.closed hc
  have hcart := b.keeps_loadInitialPrg.2.1
  have hppu := Bus.loadInitialPrg_ppu hc
  rw [Bus.loadBanks, Bus.loadBatteryRam_ppu]
  by_cases h0 : b.cart.chrBanks = 0
  · have hnone : b.loadInitialPrg.loadInitialChr = b.loadInitialPrg := by
      unfold Bus.loadInitialChr
      rw [hc', hcart]
      exact if_pos h0
    have hempty : b.cart.vrom = [] := List.eq_nil_of_length_eq_zero (h.patternCount.trans h0)
    rw [hnone, hppu, hempty]
    exact ⟨fun x _ => hzero x, fun j _ => ⟨hzero j, hzero _⟩⟩
  · obtain ⟨hrest, hbanks⟩ := Bus.vramAt_loadInitialChr b.loadInitialPrg hc' (hcart ▸ h) (hppu ▸ hs) (hcart ▸ h0)
    rw [hppu, hcart] at *
    exact ⟨fun x hx => (hrest x hx).trans (hzero x), hbanks⟩

end

/-! The reset before a load. -/

theorem State.resetAll_memAt (s : State) (c : Cart) (x : Nat) : (s.resetAll c).memAt x = memDefault s.cfg x := rfl

/-- The mirroring of the header is set right after the reset, when nothing is rendered yet. -/
theorem Ppu.setMirroring_early (cfg : Config) {p : Ppu} (hs : p.scanline < 21) (hm : p.currentMirroring = none) (m : Mirroring) :
    p.setMirroring cfg m = { p with currentMirroring := some m } := by
  have htrigger : p.triggerRendering cfg = p := if_neg (by omega)
  rw [Ppu.setMirroring, hm, if_neg nofun, htrigger]

/-- A load with a valid file: the banks over the reset machine, the request for a Reset, and the header's mirroring. -/
theorem State.loadRom_ok {s : State} {bytes : List Byte} {c : Cart} (h : parseRom s.cfg bytes = .ok c) (image : Option (List Byte)) :
    s.loadRom bytes image = { s.resetAll c with
      toBus := (((s.resetAll c).toBus.loadBanks (s.batteryImage image)).requestIrq .reset).setMirroring c.initialMirroring
      loaded := true } := by
  unfold State.loadRom
  rw [h]
  rfl

end Sys2Proof.Machine

namespace Sys2Proof

open Machine

/-- Settles O55: a load is the banks over the reset machine; what they write is read back, and the rest is the reset's. -/
theorem loadRom : Obligations.LoadRom := by
  intro s bytes image t
  refine ⟨fun e he => ⟨?unchanged, ?magic⟩, fun c hparse => ?loaded⟩
  case unchanged =>
    have ht : t = s.report (.loadFailed e) := by
      show s.loadRom bytes image = _
      unfold State.loadRom
      rw [he]
    exact ht
  case magic =>
    intro hmagic
    have hinvalid : validMagic bytes = false := by simpa [validMagic] using hmagic
    rw [parseRom, hinvalid] at he
    cases he
    rfl
  case loaded =>
    have ht : t = _ := State.loadRom_ok hparse image
    clear_value t
    subst ht
    have hsized : (s.resetAll c).cart.WellSized := parseRom_wellSized hparse
    have hbus := (s.resetAll c).toBus.sameButMapper_loadBanks (s.batteryImage image)
    refine ⟨⟨rfl, rfl, congrArg Bus.haltCycles hbus, ?irq, congrArg Bus.apu hbus, congrArg Bus.pads hbus, congrArg Bus.cart hbus, rfl,
      (congrArg Bus.cfg hbus :)⟩, fun htype => ?stores⟩
    case irq => exact (Irq.request_eq_ite _ _).trans (if_neg (by simp))
    case stores =>
      intro saved upper
      have hc : (s.resetAll c).closedMapper := openKind_specified s.cfg htype
      have hs : (s.resetAll c).ppu.scanline < 21 := show 0 < 21 by decide
      have hstores := Bus.sameButStores_loadBanks hc (s.batteryImage image) hs
      have hbanks := congrArg Bus.ppu hstores
      obtain ⟨hbelow, hprogram⟩ := Bus.memAt_loadInitialPrg (s.resetAll c).toBus hc hsized
      obtain ⟨hrest, hpattern⟩ := Bus.vramAt_loadBanks hc (s.batteryImage image) hsized hs fun _ => rfl
      have hmirroring (cfg : Config) := Ppu.setMirroring_early cfg (hstores.scanline ▸ hs) (congrArg Ppu.currentMirroring hbanks)
        c.initialMirroring
      simp only [Bus.setMirroring, Bus.requestIrq, hmirroring]
      have hmem {x : Nat} (hx : ¬(0x6000 ≤ x ∧ x < 0x8000)) := Bus.memAt_loadBanks hc (s.batteryImage image) hx
      refine ⟨?ppu, congrArg Bus.mapper hstores, fun a ha => ?low, fun j hj => ?battery, fun j hj => ⟨?lower, ?upper⟩, hpattern, hrest⟩
      case ppu => exact congrArg (fun q : Ppu => { q with currentMirroring := some c.initialMirroring }) hbanks
      case low => exact (hmem (by omega)).trans (hbelow a (by omega))
      case battery =>
        refine Bus.memAt_loadBanks_battery hc (s.batteryImage image) hsized hj ?_
        rw [State.resetAll_memAt, memDefault, if_neg (by omega), if_neg (by omega)]
      case lower => exact (hmem (by omega)).trans (hprogram j hj).1
      case upper => exact (hmem (by omega)).trans (hprogram j hj).2

/-! The machine right after reset. -/

/-- Zeroed palette RAM decodes to colour 0 everywhere (R345, R360). -/
theorem Machine.Ppu.paletteColor_reset (cfg : Config) (a : Nat) : (Ppu.reset cfg).paletteColor cfg a = emph cfg 0 0 := by
  have hzero : (Ppu.reset cfg).vramAt a = 0 := rfl
  have hcolor : (Ppu.reset cfg).f_dispType = false ∧ (Ppu.reset cfg).f_color = 0 := ⟨rfl, rfl⟩
  rw [Ppu.paletteColor, hzero, hcolor.1, hcolor.2]
  rfl

theorem noiseByte_cons (k : Nat) (v : Byte) (noise : List (Nat × Byte)) (x : Nat) :
    noiseByte ((k, v) :: noise) x = if x = k then v else noiseByte noise x := by
  by_cases h : x = k
  · simp [noiseByte, h]
  · simp [noiseByte, h, Ne.symm h]

/-- What `mem` reads after reset below 0x2000, in the default configuration (R38). -/
theorem memDefault_default {a : Nat} (ha : a < 0x2000) : memDefault Config.default a =
    if a % 0x800 = 8 then 0xF7 else if a % 0x800 = 9 then 0xEF else if a % 0x800 = 10 then 0xDF else if a % 0x800 = 15 then 0xBF else 0xFF := by
  rw [memDefault, if_pos ha]
  have hnoise : Config.default.ramNoise = [(8, 0xF7), (9, 0xEF), (10, 0xDF), (15, 0xBF)] := rfl
  simp only [hnoise, noiseByte_cons]
  rfl

/-- Settles O57: the stores are empty, so every byte is its reset fill; the rest is `reset` field by field. -/
theorem resetValues : Obligations.ResetValues := by
  refine ⟨⟨rfl, rfl, rfl, rfl, rfl, rfl, fun p hp => ?noise, fun a ha hoff => ?ram, fun a hlo hhi => ?rest⟩, fun cfg => ⟨⟨rfl, rfl, rfl, rfl⟩,
    rfl, rfl, fun a => ⟨rfl, rfl⟩, fun a ha => ?mirror, fun n => rfl, fun k => ⟨?image, ?sprite⟩, rfl, rfl, fun t ht => ?mapper⟩⟩
  case noise =>
    have hoffset {x : Nat} (hx : x < 0x800) : State.reset.memAt (0x800 * p + x) = _ := memDefault_default (a := 0x800 * p + x) (by omega)
    simp only [Nat.mul_add_mod_self_left] at hoffset
    exact ⟨hoffset (by decide), hoffset (by decide), hoffset (by decide), hoffset (by decide)⟩
  case ram =>
    have hvalue : State.reset.memAt a = _ := memDefault_default ha
    simp only [List.mem_cons, List.not_mem_nil, or_false, not_or] at hoff
    obtain ⟨h8, h9, h10, h15⟩ := hoff
    rw [hvalue, if_neg h8, if_neg h9, if_neg h10, if_neg h15]
  case rest =>
    have hvalue : State.reset.memAt a = memDefault Config.default a := rfl
    rw [hvalue, memDefault, if_neg (by omega), if_neg (by omega)]
  case mirror => exact Nat.mod_eq_of_lt ha
  case image => exact Ppu.paletteColor_reset ..
  case sprite => exact Ppu.paletteColor_reset ..
  case mapper =>
    rw [MapperRegs.reset, openKind_specified cfg ht]
    rfl

end Sys2Proof
end
